-- ==== Sys2Proof/Word.lean ====
section
/-! DEFINITION. The word, table-index and table types of CORE (00_scope.md R6 to R9, 20_memory.md R60). -/

namespace Sys2Proof

/-- A word: an unsigned integer in [0, 2^32 - 1] (R7). Addition of words is modulo 2^32 and sets no flag (R8). -/
abbrev Word := BitVec 32

/-- A byte of a key, an IV or the byte keystream (R7, R63 to R65). -/
abbrev Byte := BitVec 8

/-- A table index: an integer in [0, 511], 9 bits, whose arithmetic wraps modulo 512 (R9, R60). -/
abbrev Index := Fin 512

/-- One half of the state-table memory: 512 words, P or Q (R20, R21, R60). -/
abbrev Table := Vector Word 512

/-- Four words: a key or an IV (R6, R63, R64). -/
abbrev Quad := Vector Word 4

end Sys2Proof
end

