-- ==== Sys2Proof/Config.lean ====
section
/-! DEFINITION. What an implementation fixes and what the spec leaves open: the free values (93_implementation_defined.md
I1 to I4). Each is an opaque constant: no proof can see its value. -/

namespace Sys2Proof.Config

/-- The draws of unspecified words, one per number: draw number `k` is `freeWord k`. The words of P, Q, KEY and IV after a
reset (R43, I1, I2) and every KBUF or STATUS.CTR read while BUSY = 1 (R184, I3) take draws of their own. -/
opaque freeWord : Nat → Word

/-- LAT_INIT (R188, I4), untimed: how many turns the host takes between the acceptance of an INIT and its completion. The
argument is the number of the draw, so two INITs need not take equally long. A `Nat`, so every accepted INIT ends. -/
opaque latInit : Nat → Nat

/-- LAT_RESYNC (R188, I4), in host turns as `latInit`. -/
opaque latResync : Nat → Nat

/-- LAT_GEN(n) for n > 0 (R188, I4), in host turns as `latInit`: first argument n, second the number of the draw.
LAT_GEN(0) = 0 is no draw: GEN 0 never sets BUSY (R144, R183). -/
opaque latGen : Nat → Nat → Nat

end Sys2Proof.Config
end

