-- ==== Sys2Proof/Syntax.lean ====
section
/-! DEFINITION. The commands of CORE, one constructor per row of the opcode table (30_encoding.md R80 to R82). -/

namespace Sys2Proof

/-- A command: the operation of the OP field, with the N field where the operation has a count operand (R81, R82). -/
inductive Instr where
  /-- NOP (R145). -/
  | nop
  /-- INIT, the source's SetKeyAndIV (R128). -/
  | init
  /-- RESYNC, the source's Resynchronize (R129). -/
  | resync
  /-- GEN n, the source's GenerateKeystream for n words (R144). -/
  | gen (n : BitVec 5)
deriving DecidableEq, Repr

end Sys2Proof
end

