-- ==== Sys2Proof/Machine/State.lean ====
section
/-! DEFINITION. The state of CORE (10_state.md R20 to R33), the platform and host around it, the faults and the reset state. -/

namespace Sys2Proof.Machine

/-- The engine's sequencing state (R31): idle, or running exactly one accepted command with its operands. INIT and RESYNC hold
their latched operands in KEY and IV (R24, R25). NOP never runs (R145: BUSY stays 0). -/
inductive Engine where
  | idle
  | runInit
  | runResync
  /-- `n` is the count GEN latched at acceptance. -/
  | runGen (n : BitVec 5)
deriving DecidableEq, Repr

/-- The complete state of CORE: exactly the components of R33, in its order. -/
@[ext]
structure CoreState where
  /-- Table P (R20). -/
  P : Table
  /-- Table Q (R21). -/
  Q : Table
  /-- The step counter CTR, 10 bits (R23). -/
  ctr : BitVec 10
  /-- The latched key (R24). -/
  key : Quad
  /-- The latched IV (R25). -/
  iv : Quad
  /-- The key staging registers KEYIN0..3 (R26, R38). -/
  keyin : Quad
  /-- The IV staging registers IVIN0..3 (R26, R39). -/
  ivin : Quad
  /-- The keystream buffer (R27, R40). -/
  kbuf : Vector Word 16
  /-- 1 while an accepted command is in progress (R28). -/
  busy : Bool
  /-- 1 once an INIT has been accepted since reset (R28). -/
  keyed : Bool
  /-- 1 when P, Q and CTR hold an initialized state (R28). -/
  ready : Bool
  /-- The result of the most recent CMD write (R28, R160). -/
  errcode : BitVec 3
  /-- The engine state of R31. -/
  engine : Engine
deriving DecidableEq, Repr

/-- The table whose word j is `f j`. Irreducible, so that no proof unfolds 512 words by accident; its one law is
`tableRead_tableOf`. -/
@[irreducible] def tableOf (f : Index → Word) : Table := Vector.ofFn f

/-- The number of draws a reset takes: one per word of P, Q, KEY and IV (R43). -/
def CoreState.resetDraws : Nat := 1032

/-- CORE right after a reset whose unspecified words are the draws `d` to `d + 1031` (R43, R180). -/
def CoreState.afterReset (d : Nat) : CoreState where
  P := tableOf fun j => Config.freeWord (d + j.val)
  Q := tableOf fun j => Config.freeWord (d + 512 + j.val)
  ctr := 0
  key := Vector.ofFn fun i => Config.freeWord (d + 1024 + i.val)
  iv := Vector.ofFn fun i => Config.freeWord (d + 1028 + i.val)
  keyin := Vector.replicate 4 0
  ivin := Vector.replicate 4 0
  kbuf := Vector.replicate 16 0
  busy := false
  keyed := false
  ready := false
  errcode := 0
  engine := .idle

/-- What the world outside CORE does next: one base statement of a host program (R10, R87, R88) or an assertion of the reset
input (R180). Addresses are the platform's, with CORE's window at BASE (R74). -/
inductive Input where
  /-- `MemRead(addr, width)`; with a name, `RD <reg> -> <name>` (R87). -/
  | memRead (addr width : Nat) (name : Option String)
  /-- `MemWrite(addr, width, v)` (R87). -/
  | memWrite (addr width : Nat) (v : Word)
  /-- `WAIT`: read STATUS until BUSY is 0 (R88). -/
  | wait
  /-- `CHECK`: read STATUS; the program is in error if ERRCODE is not 0 (R88). -/
  | check
  /-- The reset input is asserted (R180). -/
  | assertReset
deriving DecidableEq, Repr

/-- The machine: CORE, the platform's window address, the host agent (R3), and the model's own bookkeeping of what the spec
leaves open. -/
@[ext]
structure State where
  /-- CORE's complete state (R33). -/
  core : CoreState
  /-- The platform parameter BASE (R6, R74); no step changes it. -/
  base : Nat
  /-- The host agent: what it does from here on, next statement first (R3, R69). -/
  inputs : List Input
  /-- The value the host's most recent MemRead returned (R10). -/
  readData : Word
  /-- The named values of the host program's end state, most recent first (R87). -/
  named : List (String × Word)
  /-- The host program is in error: a CHECK saw ERRCODE not 0 (R88). -/
  programError : Bool
  /-- MODEL: host turns left before the engine completes the running command (R188, I4). -/
  turns : Nat
  /-- MODEL: the number of the next draw of an unspecified value (I1 to I4). -/
  draws : Nat
deriving DecidableEq, Repr

/-- Why the machine stops. -/
inductive Fault where
  /-- A host access of another width than 4 bytes, misaligned, or outside the window: the platform reports a bus error and the
  host program faults (R67, I5). Raised by the host's turn. Safe: a program the bus might let pass is not run on. -/
  | busError
deriving DecidableEq, Repr

/-- Why a command has no meaning. No arm of `exec` answers one. -/
inductive Refusal where
  /-- The command named has no meaning yet. Raised by no arm of `exec`. Safe: nothing is claimed of it. -/
  | notModelled (mnemonic : String)
deriving DecidableEq, Repr

/-- The machine right after reset (R43, R180), with a host that does nothing yet. -/
def State.reset : State where
  core := CoreState.afterReset 0
  base := 0
  inputs := []
  readData := 0
  named := []
  programError := false
  turns := 0
  draws := CoreState.resetDraws

end Sys2Proof.Machine
end

