-- ==== Sys2Proof/Machine/Ops.lean ====
section
/-! DEFINITION. The shared operations over CORE's storage: the state-table memory, the keystream buffer, the one rejection
operation `raise CmdError`, reset, and the draws of unspecified values. -/

namespace Sys2Proof.Machine

/-- `j ⊟ d = (j - d) mod 512` (R9): the wrap never crosses into the other half. -/
def idxSub (j d : Index) : Index := j - d

/-- `T[j]` (R10, R60). -/
def tableRead (t : Table) (j : Index) : Word := t[j]

/-- `T[j] <- v` (R10, R60). -/
def tableWrite (t : Table) (j : Index) (v : Word) : Table := t.set j.val v j.isLt

/-- `for j in 0..511`: increasing order, each pass seeing the writes of the passes before it (R9). -/
@[irreducible] def forTable {α : Type} (f : Index → α → α) (a : α) : α := (List.finRange 512).foldl (fun acc j => f j acc) a

/-- `j = CTR[8:0]`, the index of the word the next step updates (R23). -/
def stepIndex (ctr : BitVec 10) : Index := (ctr.extractLsb' 0 9).toFin

/-- `phase = CTR[9]`: false is the P-phase, true the Q-phase (R23). -/
def qPhase (ctr : BitVec 10) : Bool := ctr.getLsbD 9

/-- `CTR[3:0]`, where the next keystream word goes (R143). -/
def kbufIndex (ctr : BitVec 10) : Fin 16 := (ctr.extractLsb' 0 4).toFin

/-- `CTR <- (CTR + 1) mod 1024` (R142). -/
def nextCtr (ctr : BitVec 10) : BitVec 10 := ctr + 1

/-- `KBUF[CTR[3:0]] <- s`, with CTR as it stands (R143). -/
def emitWord (c : CoreState) (s : Word) : CoreState :=
  { c with kbuf := c.kbuf.set (kbufIndex c.ctr).val s (kbufIndex c.ctr).isLt }

/-- `for k in 0..15: KBUF[k] <- 0` (R128, R129). -/
def clearedKbuf : Vector Word 16 := Vector.replicate 16 0

/-- The result codes of STATUS.ERRCODE (R160); 5 to 7 are never produced (I7). -/
def errOk : BitVec 3 := 0
/-- ILLEGAL: the command word is illegal (R161). -/
def errIllegal : BitVec 3 := 1
/-- NOKEY: RESYNC while KEYED = 0 (R162). -/
def errNoKey : BitVec 3 := 2
/-- NOTREADY: GEN while READY = 0 (R163). -/
def errNotReady : BitVec 3 := 3
/-- BUSY: any CMD write while BUSY = 1 (R164). -/
def errBusy : BitVec 3 := 4

/-- `raise CmdError(code)`: sets ERRCODE and does nothing else (R10, R165). CORE has no other exception: no error saves state,
changes a mode or transfers control, and there is no return (R171). -/
def raiseCmdError (code : BitVec 3) (s : State) : State := { s with core := { s.core with errcode := code } }

/-- The unspecified word a read gives next (R184, I3). -/
def drawnWord (s : State) : Word := Config.freeWord s.draws

/-- `s` with one draw used up, so that two reads may differ (I3). -/
def afterDraw (s : State) : State := { s with draws := s.draws + 1 }

/-- The reset input: every component of CORE takes its reset value and a running command is abandoned (R180, R181). The words
left unspecified are fresh draws (I1, I2); the host and the platform are not reset. -/
def applyReset (s : State) : State :=
  { s with core := CoreState.afterReset s.draws, turns := 0, draws := s.draws + CoreState.resetDraws }

end Sys2Proof.Machine
end

