-- ==== Sys2Proof/Machine/Flags.lean ====
section
/-! DEFINITION. The status flags and the STATUS word (R28, R37, R160). The arithmetic of CORE sets no flag (R100). -/

namespace Sys2Proof.Machine

/-- ERR: 1 exactly when ERRCODE is not 0 (R37, R160). -/
def errFlag (c : CoreState) : Bool := c.errcode != 0

/-- The STATUS word with `ctr` in its CTR field: from the top, 31:26 reserved, 25:16 CTR, 15:7 reserved, 6:4 ERRCODE, 3 ERR,
2 READY, 1 KEYED, 0 BUSY (R37). -/
def statusWord (c : CoreState) (ctr : BitVec 10) : Word :=
  0#6 ++ ctr ++ 0#9 ++ c.errcode ++ BitVec.ofBool (errFlag c) ++ BitVec.ofBool c.ready ++ BitVec.ofBool c.keyed ++
    BitVec.ofBool c.busy

/-- STATUS.BUSY of a STATUS word (R37), which WAIT tests (R88). -/
def statusBusy (v : Word) : Bool := v.getLsbD 0

/-- STATUS.ERRCODE of a STATUS word (R37), which CHECK tests (R88). -/
def statusErrcode (v : Word) : BitVec 3 := v.extractLsb' 4 3

/-- At the acceptance of a command that runs: ERRCODE <- 0, BUSY <- 1, the engine running it (R128, R129, R144, R166). -/
def startEngine (e : Engine) (c : CoreState) : CoreState := { c with errcode := errOk, busy := true, engine := e }

/-- At completion: BUSY <- 0, the engine idle; ERRCODE is not written (R166). -/
def stopEngine (c : CoreState) : CoreState := { c with busy := false, engine := .idle }

end Sys2Proof.Machine
end

