-- ==== Sys2Proof/Machine/Operands.lean ====
section
/-! DEFINITION. The operands of the commands (R82, R128, R129, R144) and the byte order of key, IV and output (R63 to R65). -/

namespace Sys2Proof.Machine

/-- `for i in 0..3: KEY[i] <- KEYIN[i]`, at the acceptance of INIT (R24, R128). -/
def latchKey (c : CoreState) : CoreState := { c with key := c.keyin }

/-- `for i in 0..3: IV[i] <- IVIN[i]`, at the acceptance of INIT or RESYNC (R25, R128, R129). -/
def latchIv (c : CoreState) : CoreState := { c with iv := c.ivin }

/-- The count of a GEN: the N field as an unsigned integer, not scaled (R82). -/
def genCount (n : BitVec 5) : Nat := n.toNat

/-- `byte_k(v) = v[8k+7:8k]` (R7). -/
def byteOf (v : Word) (k : Fin 4) : Byte := v.extractLsb' (8 * k.val) 8

/-- `LE32(b0, b1, b2, b3)`: b0 in the least-significant byte (R10). -/
def le32 (b0 b1 b2 b3 : Byte) : Word := b3 ++ b2 ++ b1 ++ b0

/-- The four words of a 16-byte key or IV: word i packs bytes 4i to 4i+3 (R63, R64). -/
def packQuad (b : Vector Byte 16) : Quad :=
  Vector.ofFn fun i => le32 b[4 * i.val] b[4 * i.val + 1] b[4 * i.val + 2] b[4 * i.val + 3]

/-- The four keystream bytes a keystream word stands for, least-significant first (R65). -/
def keystreamBytes (s : Word) : List Byte := [byteOf s 0, byteOf s 1, byteOf s 2, byteOf s 3]

end Sys2Proof.Machine
end

