-- ==== Sys2Proof/Machine/Functions.lean ====
section
/-! DEFINITION. Word rotations (R8) and the helper functions f1, f2, g1, g2, h1, h2 (40_functions.md R101 to R106). -/

namespace Sys2Proof.Machine

/-- `ROTR(x, n) = (x >> n) | (x << (32 - n))`, for n in 1..31 (R8). -/
def rotr (x : Word) (n : Nat) : Word := (x >>> n) ||| (x <<< (32 - n))

/-- `ROTL(x, n) = ROTR(x, 32 - n)` (R8). -/
def rotl (x : Word) (n : Nat) : Word := rotr x (32 - n)

/-- f1, of the expansion (R101). -/
def f1 (x : Word) : Word := rotr x 7 ^^^ rotr x 18 ^^^ (x >>> 3)

/-- f2, of the expansion (R102). -/
def f2 (x : Word) : Word := rotr x 17 ^^^ rotr x 19 ^^^ (x >>> 10)

/-- g1, the combiner of P-steps (R103; HC-128's form wins, 90_conflicts.md C1). -/
def g1 (x y z : Word) : Word := (rotr x 10 ^^^ rotr z 23) + rotr y 8

/-- g2, the combiner of Q-steps, with left rotations (R104; HC-128's form wins, 90_conflicts.md C3). -/
def g2 (x y z : Word) : Word := (rotl x 10 ^^^ rotl z 23) + rotl y 8

/-- The h lookups' first index, `byte_0(x)`, in [0, 255] (R61, R105). -/
def hLow (x : Word) : Index := ⟨(byteOf x 0).toNat, by omega⟩

/-- The h lookups' second index, `256 + byte_2(x)`, in [256, 511] (R61, R105). -/
def hHigh (x : Word) : Index := ⟨256 + (byteOf x 2).toNat, by omega⟩

/-- h1, which reads table Q (R105; the formal statement wins, 90_conflicts.md C2). -/
def h1 (Q : Table) (x : Word) : Word := tableRead Q (hLow x) + tableRead Q (hHigh x)

/-- h2, which reads table P (R106). -/
def h2 (P : Table) (x : Word) : Word := tableRead P (hLow x) + tableRead P (hHigh x)

end Sys2Proof.Machine
end

