-- ==== Sys2Proof/Machine/Stepper.lean ====
section
/-! DEFINITION. The stepper and the keystream emitter (42_step_emit.md R140 to R144). -/

namespace Sys2Proof.Machine

/-- The word a P-step writes to P[j]: `P[j] + g1(P[j ⊟ 3], P[j ⊟ 10], P[j ⊟ 511])` (R140). -/
def pUpdate (P : Table) (j : Index) : Word :=
  tableRead P j + g1 (tableRead P (idxSub j 3)) (tableRead P (idxSub j 10)) (tableRead P (idxSub j 511))

/-- The word a Q-step writes to Q[j]: `Q[j] + g2(Q[j ⊟ 3], Q[j ⊟ 10], Q[j ⊟ 511])` (R141). -/
def qUpdate (Q : Table) (j : Index) : Word :=
  tableRead Q j + g2 (tableRead Q (idxSub j 3)) (tableRead Q (idxSub j 10)) (tableRead Q (idxSub j 511))

/-- The keystream word of a P-step, `h1(P[j ⊟ 12]) xor P[j]`, where P holds P[j]'s new value (R140, R62). -/
def pOutput (P Q : Table) (j : Index) : Word := h1 Q (tableRead P (idxSub j 12)) ^^^ tableRead P j

/-- The keystream word of a Q-step, `h2(Q[j ⊟ 12]) xor Q[j]`, where Q holds Q[j]'s new value (R141, R62). -/
def qOutput (P Q : Table) (j : Index) : Word := h2 P (tableRead Q (idxSub j 12)) ^^^ tableRead Q j

/-- The table write of the P-step with index j (R140). -/
def pWrite (c : CoreState) (j : Index) : CoreState := { c with P := tableWrite c.P j (pUpdate c.P j) }

/-- The table write of the Q-step with index j (R141). -/
def qWrite (c : CoreState) (j : Index) : CoreState := { c with Q := tableWrite c.Q j (qUpdate c.Q j) }

/-- `CTR <- (CTR + 1) mod 1024` (R142). -/
def advanceCtr (c : CoreState) : CoreState := { c with ctr := nextCtr c.ctr }

/-- A P-step's table write and emission (R140, R143). -/
def pStep (c : CoreState) (j : Index) : CoreState :=
  emitWord (pWrite c j) (pOutput (pWrite c j).P (pWrite c j).Q j)

/-- A Q-step's table write and emission (R141, R143). -/
def qStep (c : CoreState) (j : Index) : CoreState :=
  emitWord (qWrite c j) (qOutput (qWrite c j).P (qWrite c j).Q j)

/-- `Step()`: a P-step or a Q-step by CTR[9], the emission of its word, then the counter (R140 to R143, in that order). -/
def keystreamStep (c : CoreState) : CoreState :=
  advanceCtr (if qPhase c.ctr then qStep c (stepIndex c.ctr) else pStep c (stepIndex c.ctr))

/-- `repeat n times: Step()`, the emitter (R144). -/
def emit : Nat → CoreState → CoreState
  | 0, c => c
  | n + 1, c => emit n (keystreamStep c)

end Sys2Proof.Machine
end

