-- ==== Sys2Proof/Machine/Initializer.lean ====
section
/-! DEFINITION. The initializer, `Initialize(Kw, Vw)` (41_init.md R120 to R127). -/

namespace Sys2Proof.Machine

/-- Four words repeated to fill eight (R120). -/
def expandQuad (q : Quad) : List Word := q.toList ++ q.toList

/-- W[0..15]: the expanded key, then the expanded IV (R121). -/
def seedW (kw vw : Quad) : List Word := expandQuad kw ++ expandQuad vw

/-- `W[i]` by the recurrence `f2(W[i-2]) + W[i-7] + f1(W[i-15]) + W[i-16] + i` (R122), where `recent` holds W[i-1], W[i-2], …,
the newest word first. -/
def nextW (i : Nat) (recent : List Word) : Word :=
  f2 (recent.getD 1 0) + recent.getD 6 0 + f1 (recent.getD 14 0) + recent.getD 15 0 + BitVec.ofNat 32 i

/-- `n` passes of the loop of R122 from index `i` on, the newest word first. -/
def extendW : Nat → Nat → List Word → List Word
  | 0, _, recent => recent
  | n + 1, i, recent => extendW n (i + 1) (nextW i recent :: recent)

/-- The expansion table W[0..1279], in order (R121, R122; its length is HC-128's, 90_conflicts.md C4). It lives only here: W is
not state (R30). -/
@[irreducible] def expansion (kw vw : Quad) : List Word := (extendW 1264 16 (seedW kw vw).reverse).reverse

/-- Step 3: `P[j] <- W[j + 256]`, `Q[j] <- W[j + 768]` for every j (R123). -/
def loadTables (w : List Word) (c : CoreState) : CoreState :=
  { c with P := tableOf fun j => (w.drop 256).getD j.val 0, Q := tableOf fun j => (w.drop 768).getD j.val 0 }

/-- One warm-up P-step: its output replaces the updated word, `P[j] <- t xor h1(P[j ⊟ 12])` (R124; the feedback is HC-128's,
90_conflicts.md C5). -/
def warmP (Q : Table) (j : Index) (P : Table) : Table :=
  tableWrite P j (pUpdate P j ^^^ h1 Q (tableRead P (idxSub j 12)))

/-- One warm-up Q-step: `Q[j] <- t xor h2(Q[j ⊟ 12])` (R125). -/
def warmQ (P : Table) (j : Index) (Q : Table) : Table :=
  tableWrite Q j (qUpdate Q j ^^^ h2 P (tableRead Q (idxSub j 12)))

/-- Step 4, first half: 512 warm-up steps on P, h1 reading Q as loaded (R124). -/
def warmUpP (c : CoreState) : CoreState := { c with P := forTable (warmP c.Q) c.P }

/-- Step 4, second half: 512 warm-up steps on Q, h2 reading P as the first half left it (R125). -/
def warmUpQ (c : CoreState) : CoreState := { c with Q := forTable (warmQ c.P) c.Q }

/-- Step 5: `CTR <- 0` (R126). -/
def zeroCtr (c : CoreState) : CoreState := { c with ctr := 0 }

/-- `Initialize(Kw, Vw)`: the five steps in order (R120 to R126). It writes P, Q and CTR and no word of KBUF (R127). -/
def initializeTables (kw vw : Quad) (c : CoreState) : CoreState :=
  zeroCtr (warmUpQ (warmUpP (loadTables (expansion kw vw) c)))

end Sys2Proof.Machine
end

