-- ==== Sys2Proof/Machine/EngineRun.lean ====
section
/-! DEFINITION. The engine agent: running an accepted command to completion (R3, R31, R69, R128, R129, R144). -/

namespace Sys2Proof.Machine

/-- INIT's run: `Initialize(KEY, IV)`, READY <- 1, BUSY <- 0 (R128). -/
def completeInit (c : CoreState) : CoreState := stopEngine { initializeTables c.key c.iv c with ready := true }

/-- RESYNC's run: the full procedure again with the latched KEY and the new IV, READY <- 1, BUSY <- 0 (R129). -/
def completeResync (c : CoreState) : CoreState := stopEngine { initializeTables c.key c.iv c with ready := true }

/-- GEN n's run: n steps, BUSY <- 0 (R144). -/
def completeGen (n : BitVec 5) (c : CoreState) : CoreState := stopEngine (emit (genCount n) c)

/-- What the running command leaves at completion. Its writes become visible together (R69), so completion is one update; an
idle engine does nothing. An accepted command never fails (R169). -/
def completeCommand (c : CoreState) : CoreState :=
  match c.engine with
  | .idle => c
  | .runInit => completeInit c
  | .runResync => completeResync c
  | .runGen n => completeGen n c

/-- The engine's turn. -/
def engineTurn (s : State) : State := { s with core := completeCommand s.core }

end Sys2Proof.Machine
end

