-- ==== Sys2Proof/WellFormed.lean ====
section
/-! DEFINITION. Which commands are legal (30_encoding.md R82 to R84). -/

namespace Sys2Proof

/-- A command is legal unless it is a GEN with a count above 16, the size of KBUF (R82, R83 third ground). The other grounds
of R83 are grounds on a word, not on a command: no `Instr` stands for such a word. -/
def Instr.wellFormed : Instr → Bool
  | .nop => true
  | .init => true
  | .resync => true
  | .gen n => decide (n.toNat ≤ 16)

end Sys2Proof
end

