-- ==== Sys2Proof/Decode.lean ====
section
/-! DEFINITION. The command word: its fields, the decoder and the encoder (30_encoding.md R80 to R86). -/

namespace Sys2Proof

/-- OP, CMD[3:0] (R80). -/
def opField (w : Word) : BitVec 4 := w.extractLsb' 0 4

/-- N, CMD[8:4], a 5-bit unsigned count (R80, R82). -/
def nField (w : Word) : BitVec 5 := w.extractLsb' 4 5

/-- RSV, CMD[31:9], which must be 0 (R80, R83). -/
def rsvField (w : Word) : BitVec 23 := w.extractLsb' 9 23

/-- The grounds on which a word is no command, in the order of R83's list. All are reported alike, as ILLEGAL (R161). -/
inductive DecodeError where
  /-- CMD[31:9] ≠ 0. -/
  | reservedBits
  /-- CMD[3:0] in [0x4, 0xF]. -/
  | reservedOperation
  /-- GEN with a count above 16. -/
  | countAbove16
  /-- NOP, INIT or RESYNC with a count. -/
  | countWithoutOperand
deriving DecidableEq, Repr

/-- The command `i` if the N field is zero (R82: for NOP, INIT and RESYNC, N must be 0). -/
def decodeUncounted (w : Word) (i : Instr) : Except DecodeError Instr :=
  if nField w = 0#5 then .ok i else .error .countWithoutOperand

/-- The decoder, total on 32-bit words (R84). No mode changes it and there is no other length (R86). -/
def decode (w : Word) : Except DecodeError Instr :=
  if rsvField w = 0#23 then
    match (opField w).toNat with
    | 0 => decodeUncounted w .nop
    | 1 => decodeUncounted w .init
    | 2 => decodeUncounted w .resync
    | 3 => if (nField w).toNat ≤ 16 then .ok (.gen (nField w)) else .error .countAbove16
    | _ => .error .reservedOperation
  else .error .reservedBits

/-- The word of a command, written from the encodings of R84: RSV, N, OP from the top. -/
def encode : Instr → Word
  | .nop => 0#23 ++ 0#5 ++ 0#4
  | .init => 0#23 ++ 0#5 ++ 1#4
  | .resync => 0#23 ++ 0#5 ++ 2#4
  | .gen n => 0#23 ++ n ++ 3#4

/-- The command the decoder reads from an instruction whose bits, numbered as the opcode table numbers them, are `w`. A command
is one 32-bit word (R86), so bits of `w` at or above 32 (within the first `nbits`) make it no command. -/
def decodeTableWord (nbits w : Nat) : Option Instr :=
  if w % 2 ^ nbits < 2 ^ 32 then
    match decode (BitVec.ofNat 32 (w % 2 ^ nbits)) with
    | .ok i => some i
    | .error _ => none
  else none

end Sys2Proof
end

