-- ==== Sys2Proof/Machine/Commands.lean ====
section
/-! DEFINITION. The meanings of the four commands: what the CMD write of each does at once, in the order of R167's checks. What an
accepted INIT, RESYNC or GEN then does is the engine's turn (Machine/EngineRun.lean). -/

namespace Sys2Proof.Machine

/-- The acceptance of a running command leaves `turns` host turns before its completion, and the draw that said so is used up
(R188, I4). -/
def setTurns (t : Nat) (s : State) : State := { afterDraw s with turns := t }

/-- INIT's part at acceptance: KEY and IV latched, KBUF cleared, KEYED <- 1, READY <- 0, ERRCODE <- 0, BUSY <- 1 (R128). -/
def acceptInit (c : CoreState) : CoreState :=
  startEngine .runInit { latchIv (latchKey c) with kbuf := clearedKbuf, keyed := true, ready := false }

/-- RESYNC's part at acceptance: IV latched, KBUF cleared, READY <- 0, ERRCODE <- 0, BUSY <- 1; KEY and KEYED are not written
(R129). -/
def acceptResync (c : CoreState) : CoreState :=
  startEngine .runResync { latchIv c with kbuf := clearedKbuf, ready := false }

/-- GEN n's part at acceptance (R144). GEN 0 completes without leaving BUSY set (R183, LAT_GEN(0) = 0 in R188), and changes
nothing but ERRCODE. -/
def acceptGen (n : BitVec 5) (c : CoreState) : CoreState :=
  if genCount n = 0 then { c with errcode := errOk } else startEngine (.runGen n) c

/-- NOP: ERRCODE <- 0 and nothing else; BUSY stays 0 (R145). -/
def execNop (s : State) : Host.Outcome State Fault Refusal :=
  if s.core.busy then .next (raiseCmdError errBusy s)
  else .next { s with core := { s.core with errcode := errOk } }

/-- INIT: accepted in any state that is not busy (R128, R164). -/
def execInit (s : State) : Host.Outcome State Fault Refusal :=
  if s.core.busy then .next (raiseCmdError errBusy s)
  else .next (setTurns (Config.latInit s.draws) { s with core := acceptInit s.core })

/-- RESYNC: accepted when not busy and KEYED = 1 (R129, R162, R164). -/
def execResync (s : State) : Host.Outcome State Fault Refusal :=
  if s.core.busy then .next (raiseCmdError errBusy s)
  else if s.core.keyed then .next (setTurns (Config.latResync s.draws) { s with core := acceptResync s.core })
  else .next (raiseCmdError errNoKey s)

/-- GEN n: accepted when not busy, n ≤ 16 and READY = 1 (R144, R161, R163, R164). -/
def execGen (n : BitVec 5) (s : State) : Host.Outcome State Fault Refusal :=
  if s.core.busy then .next (raiseCmdError errBusy s)
  else if 16 < genCount n then .next (raiseCmdError errIllegal s)
  else if s.core.ready then
    if genCount n = 0 then .next { s with core := acceptGen n s.core }
    else .next (setTurns (Config.latGen (genCount n) s.draws) { s with core := acceptGen n s.core })
  else .next (raiseCmdError errNotReady s)

end Sys2Proof.Machine
end

