-- ==== Sys2Proof/Machine/HostBus.lean ====
section
/-! DEFINITION. The host agent: the register window, the supported accesses and the host's turn (R35 to R42, R67, R68, R87, R88). -/

namespace Sys2Proof.Machine

/-- The registers of the window (R35). -/
inductive Reg where
  | cmd
  | status
  | keyin (i : Fin 4)
  | ivin (i : Fin 4)
  | kbuf (k : Fin 16)
  /-- Offsets 0x08, 0x0C and 0x30 to 0x3C (R41). -/
  | reserved
deriving DecidableEq, Repr

/-- The register of a 4-byte-aligned offset below 0x80 (R35). -/
def regAt (off : Nat) : Reg :=
  if off = 0x00 then .cmd
  else if off = 0x04 then .status
  else if off < 0x10 then .reserved
  else if off < 0x20 then .keyin (Fin.ofNat 4 ((off - 0x10) / 4))
  else if off < 0x30 then .ivin (Fin.ofNat 4 ((off - 0x20) / 4))
  else if off < 0x40 then .reserved
  else .kbuf (Fin.ofNat 16 ((off - 0x40) / 4))

/-- A supported access: 32 bits wide, at a 4-byte-aligned offset in [0x00, 0x7C] from BASE (R67). -/
def supported (base addr width : Nat) : Bool :=
  decide (width = 4 ∧ base ≤ addr ∧ (addr - base) % 4 = 0 ∧ addr - base ≤ 0x7C)

/-- The register a host access reaches, none where the access is not supported (R35, R67). -/
def busReg (base addr width : Nat) : Option Reg :=
  if supported base addr width then some (regAt (addr - base)) else none

/-- The value of STATUS and the state after its read. While BUSY = 1 the CTR field is a draw in [0, 1023] (R37, R184). -/
def readStatus (s : State) : Word × State :=
  if s.core.busy then (statusWord s.core ((drawnWord s).setWidth 10), afterDraw s) else (statusWord s.core s.core.ctr, s)

/-- The value of KBUF[k] and the state after its read; a draw while BUSY = 1 (R40, R184). A read consumes nothing. -/
def readKbuf (k : Fin 16) (s : State) : Word × State :=
  if s.core.busy then (drawnWord s, afterDraw s) else (s.core.kbuf[k], s)

/-- A 32-bit read. CMD, KEYIN, IVIN and reserved offsets read 0 (R36, R38, R39, R41, R42). No read changes a register (R68). -/
def readReg (r : Reg) (s : State) : Word × State :=
  match r with
  | .cmd => (0, s)
  | .status => readStatus s
  | .keyin _ => (0, s)
  | .ivin _ => (0, s)
  | .kbuf k => readKbuf k s
  | .reserved => (0, s)

/-- `KEYIN[i] <- v`, busy or not (R38, R185). -/
def writeKeyin (i : Fin 4) (v : Word) (s : State) : State :=
  { s with core := { s.core with keyin := s.core.keyin.set i.val v i.isLt } }

/-- `IVIN[i] <- v`, busy or not (R39, R185). -/
def writeIvin (i : Fin 4) (v : Word) (s : State) : State :=
  { s with core := { s.core with ivin := s.core.ivin.set i.val v i.isLt } }

/-- A CMD write: the word is decoded and checked at once (R36). BUSY comes before ILLEGAL (R167); a legal word's other checks are
its meaning's. -/
def cmdWrite (w : Word) (s : State) : Host.Outcome State Fault Refusal :=
  match decode w with
  | .ok i => exec i s
  | .error _ => .next (raiseCmdError (if s.core.busy then errBusy else errIllegal) s)

/-- A 32-bit write. Writes to STATUS, KBUF and reserved offsets change nothing (R37, R40 to R42). -/
def writeReg (r : Reg) (v : Word) (s : State) : Host.Outcome State Fault Refusal :=
  match r with
  | .cmd => cmdWrite v s
  | .status => .next s
  | .keyin i => .next (writeKeyin i v s)
  | .ivin i => .next (writeIvin i v s)
  | .kbuf _ => .next s
  | .reserved => .next s

/-- The host keeps the value it read, under its name if it has one (R87). -/
def recordRead (name : Option String) (v : Word) (s : State) : State :=
  { s with readData := v, named := match name with | some n => (n, v) :: s.named | none => s.named }

/-- `MemRead(addr, width)` (R10, R67). -/
def memRead (addr width : Nat) (name : Option String) (s : State) : Host.Outcome State Fault Refusal :=
  match busReg s.base addr width with
  | some r => .next (recordRead name (readReg r s).1 (readReg r s).2)
  | none => .fault .busError

/-- `MemWrite(addr, width, v)` (R10, R67). -/
def memWrite (addr width : Nat) (v : Word) (s : State) : Host.Outcome State Fault Refusal :=
  match busReg s.base addr width with
  | some r => writeReg r v s
  | none => .fault .busError

/-- One poll of `WAIT`: `RD STATUS`, and the statement stays next while bit 0 of the value read is 1 (R88). `rest` is what
follows it. -/
def waitPoll (rest : List Input) (s : State) : State :=
  recordRead none (readStatus s).1
    { (readStatus s).2 with inputs := if statusBusy (readStatus s).1 then .wait :: rest else rest }

/-- `CHECK`: `RD STATUS`, and the program is in error if bits 6:4 of the value read are not 0 (R88). -/
def checkStatus (s : State) : State :=
  recordRead none (readStatus s).1
    { (readStatus s).2 with programError := (readStatus s).2.programError || statusErrcode (readStatus s).1 != 0 }

/-- The host's turn: its next statement, or nothing when it has none. Accesses take effect in program order, one at a time
(R69). -/
def hostTurn (s : State) : Host.Outcome State Fault Refusal :=
  match s.inputs with
  | [] => .next s
  | .memRead addr width name :: rest => memRead addr width name { s with inputs := rest }
  | .memWrite addr width v :: rest => memWrite addr width v { s with inputs := rest }
  | .wait :: rest => .next (waitPoll rest { s with inputs := rest })
  | .check :: rest => .next (checkStatus { s with inputs := rest })
  | .assertReset :: rest => .next (applyReset { s with inputs := rest })

end Sys2Proof.Machine
end

