-- ==== Sys2Proof/Machine/Step.lean ====
section
/-! DEFINITION. One step of the machine, and the placing of a command for the next step. -/

namespace Sys2Proof.Machine

/-- One step: a turn of the host or of the engine (R3). The engine's turn comes when a command runs and the host's turns before
its completion are used up; until then, and while the engine is idle, the host takes its turns. -/
def step (s : State) : Host.Outcome State Fault Refusal :=
  if s.core.engine = .idle then hostTurn s
  else if s.turns = 0 then .next (engineTurn s)
  else hostTurn { s with turns := s.turns - 1 }

/-- `s` with the CMD write of the command `w` as the host's next statement. While a command runs the host is given a turn, so
that the write is the very next step. -/
def State.withFetchWord (s : State) (nbits w : Nat) : State :=
  { s with
    inputs := .memWrite s.base 4 (BitVec.ofNat 32 (w % 2 ^ nbits)) :: s.inputs
    turns := if s.core.engine = .idle then s.turns else s.turns + 1 }

end Sys2Proof.Machine
end

