-- ==== Sys2Proof/Machine/HostSyntax.lean ====
section
/-! DEFINITION. The host assembler syntax: the base statements, the pseudo-statements and their expansions (R87, R88), and the
reading of a program's text. CORE has no control-transfer statement (R89). -/

namespace Sys2Proof.Machine

/-- The byte offset of a register (R35). For `reserved`, which no statement can name, the first reserved offset. -/
def regOffset : Reg → Nat
  | .cmd => 0x00
  | .status => 0x04
  | .keyin i => 0x10 + 4 * i.val
  | .ivin i => 0x20 + 4 * i.val
  | .kbuf k => 0x40 + 4 * k.val
  | .reserved => 0x08

/-- A statement of a host program (R87, R88). -/
inductive AsmStmt where
  /-- `WR <reg>, <imm32>`. -/
  | wr (r : Reg) (imm : Word)
  /-- `RD <reg>`. -/
  | rd (r : Reg)
  /-- `RD <reg> -> <name>`. -/
  | rdTo (r : Reg) (name : String)
  | nop
  | init
  | resync
  /-- `GEN <n>`, 0 ≤ n ≤ 16. -/
  | gen (n : Fin 17)
  | setKey (k0 k1 k2 k3 : Word)
  | setIv (v0 v1 v2 v3 : Word)
  | wait
  | check
deriving DecidableEq, Repr

/-- `WR <reg>, <imm32>` is `MemWrite(BASE + offset(reg), 4, imm32)` (R87). -/
def asmWrite (base : Nat) (r : Reg) (imm : Word) : Input := .memWrite (base + regOffset r) 4 imm

/-- The expansion of a statement (R87, R88). -/
def expandStmt (base : Nat) : AsmStmt → List Input
  | .wr r imm => [asmWrite base r imm]
  | .rd r => [.memRead (base + regOffset r) 4 none]
  | .rdTo r name => [.memRead (base + regOffset r) 4 (some name)]
  | .nop => [asmWrite base .cmd 0x00000000#32]
  | .init => [asmWrite base .cmd 0x00000001#32]
  | .resync => [asmWrite base .cmd 0x00000002#32]
  | .gen n => [asmWrite base .cmd (0x00000003#32 + BitVec.ofNat 32 (16 * n.val))]
  | .setKey k0 k1 k2 k3 =>
    [asmWrite base (.keyin 0) k0, asmWrite base (.keyin 1) k1, asmWrite base (.keyin 2) k2, asmWrite base (.keyin 3) k3]
  | .setIv v0 v1 v2 v3 =>
    [asmWrite base (.ivin 0) v0, asmWrite base (.ivin 1) v1, asmWrite base (.ivin 2) v2, asmWrite base (.ivin 3) v3]
  | .wait => [.wait]
  | .check => [.check]

/-- A host program as the statements its host agent runs. -/
def expandProgram (base : Nat) (p : List AsmStmt) : List Input := p.flatMap (expandStmt base)

/-- A word of a line that ends: kept unless it is empty. `acc` holds it with the last character first. -/
def flushToken (acc : List Char) (rest : List String) : List String :=
  if acc = [] then rest else String.ofList acc.reverse :: rest

/-- The words of a line: separated by spaces and tabs, a comma a word of its own, `;` starting a comment (R87). -/
def tokens : List Char → List Char → List String
  | [], acc => flushToken acc []
  | c :: cs, acc =>
    if c = ';' then flushToken acc []
    else if c = ' ' ∨ c = '\t' ∨ c = '\r' then flushToken acc (tokens cs [])
    else if c = ',' then flushToken acc ("," :: tokens cs [])
    else tokens cs (c :: acc)

/-- The value of a digit in a base of 10 or 16. -/
def digitValue (radix : Nat) (c : Char) : Option Nat :=
  let d :=
    if '0' ≤ c ∧ c ≤ '9' then some (c.toNat - '0'.toNat)
    else if 'a' ≤ c ∧ c ≤ 'f' then some (c.toNat - 'a'.toNat + 10)
    else if 'A' ≤ c ∧ c ≤ 'F' then some (c.toNat - 'A'.toNat + 10)
    else none
  d.bind fun v => if v < radix then some v else none

/-- The value of a run of digits, most significant first, after the value `acc` of those before it. -/
def digitsValue (radix : Nat) : List Char → Nat → Option Nat
  | [], acc => some acc
  | c :: cs, acc => (digitValue radix c).bind fun d => digitsValue radix cs (acc * radix + d)

/-- A number: decimal, or hexadecimal with a 0x prefix (R87). -/
def parseNumber (t : String) : Option Nat :=
  match t.toList with
  | '0' :: 'x' :: d :: ds => digitsValue 16 (d :: ds) 0
  | d :: ds => digitsValue 10 (d :: ds) 0
  | [] => none

/-- A 32-bit immediate (R87). -/
def parseWord (t : String) : Option Word :=
  (parseNumber t).bind fun v => if v < 2 ^ 32 then some (BitVec.ofNat 32 v) else none

/-- The register names of R87. -/
def regNames : List (String × Reg) :=
  [("CMD", .cmd), ("STATUS", .status)] ++
    (List.finRange 4).map (fun i => ("KEYIN" ++ toString i.val, Reg.keyin i)) ++
    (List.finRange 4).map (fun i => ("IVIN" ++ toString i.val, Reg.ivin i)) ++
    (List.finRange 16).map (fun k => ("KBUF" ++ toString k.val, Reg.kbuf k))

/-- The register of a name (R87). -/
def parseReg (t : String) : Option Reg := regNames.lookup t

/-- The four operands of SETKEY and SETIV (R88). -/
def parseQuad (f : Word → Word → Word → Word → AsmStmt) (a b c d : String) : Option AsmStmt := do
  let a ← parseWord a
  let b ← parseWord b
  let c ← parseWord c
  let d ← parseWord d
  return f a b c d

/-- The statement the words of a line spell; none where they spell no statement of R87 or R88. -/
def parseStmt : List String → Option AsmStmt
  | ["WR", r, ",", v] => (parseReg r).bind fun r => (parseWord v).map fun v => .wr r v
  | ["RD", r] => (parseReg r).map .rd
  | ["RD", r, "->", name] => (parseReg r).map fun r => .rdTo r name
  | ["NOP"] => some .nop
  | ["INIT"] => some .init
  | ["RESYNC"] => some .resync
  | ["GEN", n] => (parseNumber n).bind fun n => if h : n < 17 then some (.gen ⟨n, h⟩) else none
  | ["SETKEY", a, ",", b, ",", c, ",", d] => parseQuad .setKey a b c d
  | ["SETIV", a, ",", b, ",", c, ",", d] => parseQuad .setIv a b c d
  | ["WAIT"] => some .wait
  | ["CHECK"] => some .check
  | _ => none

/-- The lines of a text. -/
def linesOf : List Char → List Char → List (List Char)
  | [], acc => [acc.reverse]
  | c :: cs, acc => if c = '\n' then acc.reverse :: linesOf cs [] else linesOf cs (c :: acc)

/-- The statements of a text, one a line, blank and comment lines none; none where a line spells no statement (R87). -/
def parseLines : List (List Char) → Option (List AsmStmt)
  | [] => some []
  | l :: ls =>
    match tokens l [] with
    | [] => parseLines ls
    | ts => (parseStmt ts).bind fun st => (parseLines ls).map fun p => st :: p

/-- A host program's text read and expanded for the window at `base` (R87, R88). -/
def assembleText (base : Nat) (text : String) : Option (List Input) :=
  (parseLines (linesOf text.toList [])).map (expandProgram base)

end Sys2Proof.Machine
end

