-- ==== Sys2Proof/Safety.lean ====
section
/-! DEFINITION. What counts as a safe run: the states CORE can be in, the host programs the bus lets through, and what a host can
see. -/

namespace Sys2Proof.Machine

/-- The flags that go with each engine state (R28, R31, R162, R163): idle, KEYED and READY agree; a running INIT or RESYNC has a
key and no ready tables; a running GEN has ready tables and a count in 1..16. -/
def engineCoherent (c : CoreState) : Bool :=
  match c.engine with
  | .idle => !c.busy && (c.keyed == c.ready)
  | .runInit => c.busy && c.keyed && !c.ready
  | .runResync => c.busy && c.keyed && !c.ready
  | .runGen n => c.busy && c.keyed && c.ready && decide (1 ≤ n.toNat ∧ n.toNat ≤ 16)

/-- The next step is the host's turn: no command runs, or host turns are left before its completion (notes/assumptions/3.md). -/
def hostHasTurn (s : State) : Prop := s.core.engine = .idle ∨ 0 < s.turns

/-- The host turns left after `n` turns of the host; they are used up only while a command runs. -/
def turnsAfter (n : Nat) (s : State) : Nat := if s.core.engine = .idle then s.turns else s.turns - n

/-- `k` steps of the machine, stopping at the first fault or refusal. It is the host's `Host.Core.run` of `Sys2Proof.core`
(`runSteps_eq_run` in Laws/Commands.lean), with the state type spelled out. -/
def runSteps : Nat → State → Host.Outcome State Fault Refusal
  | 0, s => .next s
  | k + 1, s =>
    match step s with
    | .next t => runSteps k t
    | .fault r => .fault r
    | .refused r => .refused r

/-- The states CORE can be in: flags and engine agree; ERRCODE is no reserved code (R160, I7); KBUF is zero unless the tables are
ready (R27, D23); CTR is 0 until a first INIT (R23, R43). -/
def CoreState.legal (c : CoreState) : Bool :=
  engineCoherent c && decide (c.errcode.toNat ≤ 4) && (c.ready || decide (c.kbuf = clearedKbuf)) &&
    (c.keyed || decide (c.ctr = 0))

/-- A statement of the host that raises no bus error (R67). -/
def inputSupported (base : Nat) : Input → Bool
  | .memRead addr width _ => supported base addr width
  | .memWrite addr width _ => supported base addr width
  | .wait => true
  | .check => true
  | .assertReset => true

/-- A host program that raises no bus error. -/
def programSupported (s : State) : Bool := s.inputs.all (inputSupported s.base)

/-- Two states that differ at most in what the host cannot read: P, Q, KEY, IV, KEYIN and IVIN (R29, R38, R39). -/
def hostEquiv (s t : State) : Prop :=
  t = { s with core := { s.core with
    P := t.core.P, Q := t.core.Q, key := t.core.key, iv := t.core.iv, keyin := t.core.keyin, ivin := t.core.ivin } }

/-- The illegal command words, by R83's four grounds on the bits of the word. -/
def illegalWord (w : Word) : Prop :=
  w.extractLsb' 9 23 ≠ 0#23 ∨ 4 ≤ (w.extractLsb' 0 4).toNat ∨
    (w.extractLsb' 0 4 = 3#4 ∧ 16 < (w.extractLsb' 4 5).toNat) ∨
    ((w.extractLsb' 0 4).toNat < 3 ∧ w.extractLsb' 4 5 ≠ 0#5)

/-- How many keystream words a CMD write asks for: n for GEN n, none for any other word. -/
def wordsAskedFor (w : Word) : Nat :=
  match decode w with
  | .ok (.gen n) => n.toNat
  | .ok .nop => 0
  | .ok .init => 0
  | .ok .resync => 0
  | .error _ => 0

/-- The machine after CMD writes of the words in order, each command waited for before the next write (R183). -/
def cmdSequence : List Word → State → State
  | [], s => s
  | w :: ws, s =>
    match cmdWrite w s with
    | .next t => cmdSequence ws (engineTurn t)
    | .fault _ => s
    | .refused _ => s

/-- Keystream word number t, counting from t = 0 at `c`: the word the step from `emit t c` produces (R65, R143). -/
def keystreamWord (c : CoreState) (t : Nat) : Word :=
  (keystreamStep (emit t c)).kbuf[kbufIndex (emit t c).ctr]

end Sys2Proof.Machine
end

