-- ==== Sys2Proof/Certificates/Slice0/Obligations.lean ====
section
/-! DEFINITION. The statements about CORE that the provers settle. -/

open Sys2Proof Sys2Proof.Machine

/-! ### Command words -/

/-- R80 to R84: the decoder reads `i` from exactly the word the encoder writes for it, and reads no illegal command. -/
def Obligations.DecodeInvertsEncode : Prop :=
  ∀ (w : Word) (i : Instr), decode w = .ok i ↔ (i.wellFormed = true ∧ encode i = w)

/-- R84: every word is exactly one of the 20 legal commands or illegal. -/
def Obligations.LegalWordsAreTheTwenty : Prop :=
  (∀ w : Word, decode w = .ok .nop ↔ w = 0x00000000#32) ∧
  (∀ w : Word, decode w = .ok .init ↔ w = 0x00000001#32) ∧
  (∀ w : Word, decode w = .ok .resync ↔ w = 0x00000002#32) ∧
  (∀ (w : Word) (n : BitVec 5), decode w = .ok (.gen n) ↔
    (n.toNat ≤ 16 ∧ w = 0x00000003#32 + 16#32 * n.zeroExtend 32)) ∧
  (∀ w : Word, (∃ e, decode w = .error e) ↔
    (w ≠ 0#32 ∧ w ≠ 1#32 ∧ w ≠ 2#32 ∧ ∀ n : Nat, n ≤ 16 → w ≠ BitVec.ofNat 32 (3 + 16 * n)))

/-- R83, R161: the four grounds, and the rejection of an illegal word with ILLEGAL (code 1) while CORE is not busy. -/
def Obligations.IllegalWordsAreRejected : Prop :=
  ∀ w : Word, ((∃ e, decode w = .error e) ↔ illegalWord w) ∧
    (illegalWord w → ∀ s : State, s.core.busy = false →
      cmdWrite w s = .next { s with core := { s.core with errcode := 1#3 } })

/-- V-CMD's words, one or more of each command and of each ground of illegality. -/
def Obligations.SampleWordsDecode : Prop :=
  decode 0x00000000#32 = .ok .nop ∧ decode 0x00000001#32 = .ok .init ∧ decode 0x00000002#32 = .ok .resync ∧
  decode 0x00000003#32 = .ok (.gen 0) ∧ decode 0x000000F3#32 = .ok (.gen 15) ∧ decode 0x00000103#32 = .ok (.gen 16) ∧
  decode 0x00000113#32 = .error .countAbove16 ∧ decode 0x00000004#32 = .error .reservedOperation ∧
  decode 0x00000011#32 = .error .countWithoutOperand ∧ decode 0x80000003#32 = .error .reservedBits

/-! ### The four commands: acceptance, completion and frame -/

/-- R145: NOP, when CORE is not busy, sets ERRCODE to OK and changes nothing else. -/
def Obligations.NopClearsErrcodeOnly : Prop :=
  ∀ s : State, s.core.busy = false →
    exec .nop s = .next { s with core := { s.core with errcode := 0#3 } }

/-- R128: INIT, when CORE is not busy, is accepted with the effects named here and no other, and its run then leaves an
initialized state. How many host turns lie between the two is a free value (notes/assumptions/3.md). -/
def Obligations.InitIsAcceptedAndCompletes : Prop :=
  ∀ s : State, s.core.busy = false →
    let c := { s.core with
      key := s.core.keyin, iv := s.core.ivin, kbuf := Vector.replicate 16 0#32, keyed := true, ready := false,
      errcode := 0#3, busy := true, engine := Engine.runInit }
    exec .init s = .next { s with core := c, turns := Config.latInit s.draws, draws := s.draws + 1 } ∧
    completeCommand c = { c with
      P := (initializeTables s.core.keyin s.core.ivin s.core).P, Q := (initializeTables s.core.keyin s.core.ivin s.core).Q,
      ctr := 0#10, ready := true, busy := false, engine := .idle }

/-- R129: RESYNC, when CORE is not busy and has a key, is accepted with the effects named here and no other, and its run then
re-initializes with the latched KEY, never KEYIN. How many host turns lie between is a free value (notes/assumptions/3.md). -/
def Obligations.ResyncIsAcceptedAndCompletes : Prop :=
  ∀ s : State, s.core.busy = false → s.core.keyed = true →
    let c := { s.core with
      iv := s.core.ivin, kbuf := Vector.replicate 16 0#32, ready := false, errcode := 0#3, busy := true,
      engine := Engine.runResync }
    exec .resync s = .next { s with core := c, turns := Config.latResync s.draws, draws := s.draws + 1 } ∧
    completeCommand c = { c with
      P := (initializeTables s.core.key s.core.ivin s.core).P, Q := (initializeTables s.core.key s.core.ivin s.core).Q,
      ctr := 0#10, ready := true, busy := false, engine := .idle }

/-- R144: GEN n for n in 1..16, when CORE is not busy and is ready, is accepted with the effects named here and no other, and its
run then takes n steps, which write P, Q, CTR and KBUF alone. How many host turns lie between is a free value
(notes/assumptions/3.md). -/
def Obligations.GenIsAcceptedAndCompletes : Prop :=
  ∀ (s : State) (n : BitVec 5), s.core.busy = false → s.core.ready = true → 1 ≤ n.toNat → n.toNat ≤ 16 →
    let c := { s.core with errcode := 0#3, busy := true, engine := Engine.runGen n }
    exec (.gen n) s = .next { s with core := c, turns := Config.latGen n.toNat s.draws, draws := s.draws + 1 } ∧
    completeCommand c = { c with
      P := (emit n.toNat s.core).P, Q := (emit n.toNat s.core).Q, ctr := s.core.ctr + BitVec.ofNat 10 n.toNat,
      kbuf := (emit n.toNat s.core).kbuf, busy := false, engine := .idle }

/-- R144: GEN 0, when CORE is not busy and is ready, changes nothing but ERRCODE. -/
def Obligations.GenZeroClearsErrcodeOnly : Prop :=
  ∀ s : State, s.core.busy = false → s.core.ready = true →
    exec (.gen 0) s = .next { s with core := { s.core with errcode := 0#3 } }

/-! ### Rejections -/

/-- R164: any CMD write while BUSY = 1, whatever the word, sets ERRCODE to BUSY (code 4) and nothing else, and the running command
completes as if the write had not occurred. -/
def Obligations.BusyRejectsEveryCmdWrite : Prop :=
  ∀ (s : State) (w : Word), s.core.busy = true →
    cmdWrite w s = .next { s with core := { s.core with errcode := 4#3 } } ∧
    completeCommand { s.core with errcode := 4#3 } = { completeCommand s.core with errcode := 4#3 }

/-- R162: a RESYNC, as command and as legal word, while KEYED = 0 raises NOKEY (code 2). -/
def Obligations.ResyncWithoutKeyIsRejected : Prop :=
  ∀ s : State, s.core.busy = false → s.core.keyed = false →
    exec .resync s = .next { s with core := { s.core with errcode := 2#3 } } ∧
    cmdWrite 0x00000002#32 s = .next { s with core := { s.core with errcode := 2#3 } }

/-- R163: a GEN, as command and as legal word, for any n including 0, while READY = 0 raises NOTREADY (code 3). -/
def Obligations.GenBeforeReadyIsRejected : Prop :=
  ∀ (s : State) (n : BitVec 5), s.core.busy = false → s.core.ready = false → n.toNat ≤ 16 →
    exec (.gen n) s = .next { s with core := { s.core with errcode := 3#3 } } ∧
    cmdWrite (0x00000003#32 + 16#32 * n.zeroExtend 32) s = .next { s with core := { s.core with errcode := 3#3 } }

/-- R165: a CMD write that leaves a nonzero ERRCODE does nothing but set it. Every CMD write answers a next state, so none is
left out. -/
def Obligations.RejectedWriteSetsErrcodeOnly : Prop :=
  ∀ (s : State) (w : Word), ∃ t : State, cmdWrite w s = .next t ∧
    (t.core.errcode ≠ 0#3 → t = { s with core := { s.core with errcode := t.core.errcode } })

/-- R167: the checks of one CMD write, in their order. -/
def Obligations.CmdWriteChecksInOrder : Prop :=
  ∀ (s : State) (w : Word),
    let reject (code : BitVec 3) : Host.Outcome State Fault Refusal :=
      .next { s with core := { s.core with errcode := code } }
    (s.core.busy = true → cmdWrite w s = reject 4#3) ∧
    (s.core.busy = false → illegalWord w → cmdWrite w s = reject 1#3) ∧
    (s.core.busy = false → ¬illegalWord w → w.extractLsb' 0 4 = 2#4 → s.core.keyed = false → cmdWrite w s = reject 2#3) ∧
    (s.core.busy = false → ¬illegalWord w → w.extractLsb' 0 4 = 3#4 → s.core.ready = false → cmdWrite w s = reject 3#3) ∧
    (s.core.busy = false → ¬illegalWord w → (w.extractLsb' 0 4 = 2#4 → s.core.keyed = true) →
      (w.extractLsb' 0 4 = 3#4 → s.core.ready = true) →
      ∃ i t, decode w = .ok i ∧ exec i s = .next t ∧ cmdWrite w s = .next t ∧ t.core.errcode = 0#3)

/-- R166: ERRCODE changes at a host's CMD write or at a reset and nowhere else; a CMD write sets it to 0 or to a code from 1 to 4;
completion does not write it. -/
def Obligations.ErrcodeChangesOnlyAtCmdWriteOrReset : Prop :=
  (∀ s t : State, step s = .next t → t.core.errcode ≠ s.core.errcode →
    (∃ w rest, s.inputs = .memWrite s.base 4 w :: rest) ∨ (∃ rest, s.inputs = .assertReset :: rest)) ∧
  (∀ (s : State) (w : Word), ∃ t, cmdWrite w s = .next t ∧ t.core.errcode.toNat ≤ 4) ∧
  (∀ c : CoreState, (completeCommand c).errcode = c.errcode)

/-! ### Word functions -/

/-- R101, R102: f1 and f2 in the rotations of bit vectors. -/
def Obligations.ExpansionFunctionsAreRotations : Prop :=
  ∀ x : Word,
    f1 x = x.rotateRight 7 ^^^ x.rotateRight 18 ^^^ (x >>> 3) ∧ f2 x = x.rotateRight 17 ^^^ x.rotateRight 19 ^^^ (x >>> 10)

/-- R103, R104: g1 with right and g2 with left rotations: x by 10, z by 23, y by 8 and added; and the operands the P-step and the
Q-step with index j call them on. -/
def Obligations.FeedbackCombinersAreRotations : Prop :=
  (∀ x y z : Word,
    g1 x y z = (x.rotateRight 10 ^^^ z.rotateRight 23) + y.rotateRight 8 ∧
    g2 x y z = (x.rotateLeft 10 ^^^ z.rotateLeft 23) + y.rotateLeft 8) ∧
  (∀ (P : Table) (j : Index), pUpdate P j =
    tableRead P j + g1 (tableRead P (idxSub j 3)) (tableRead P (idxSub j 10)) (tableRead P (idxSub j 511))) ∧
  (∀ (Q : Table) (j : Index), qUpdate Q j =
    tableRead Q j + g2 (tableRead Q (idxSub j 3)) (tableRead Q (idxSub j 10)) (tableRead Q (idxSub j 511)))

/-- R105, R106: each output filter adds the words at byte 0 and at 256 + byte 2; bytes 1 and 3 do not affect it. -/
def Obligations.OutputFiltersAddTwoTableWords : Prop :=
  ∀ (T : Table) (x : Word),
    h1 T x = tableRead T ⟨(x.extractLsb' 0 8).toNat, by omega⟩ + tableRead T ⟨256 + (x.extractLsb' 16 8).toNat, by omega⟩ ∧
    h2 T x = tableRead T ⟨(x.extractLsb' 0 8).toNat, by omega⟩ + tableRead T ⟨256 + (x.extractLsb' 16 8).toNat, by omega⟩ ∧
    h1 T x = h1 T (x &&& 0x00FF00FF#32) ∧ h2 T x = h2 T (x &&& 0x00FF00FF#32)

/-- R9, R62: index subtraction is modulo 512, and no step reads the updated word through one of its four offsets. -/
def Obligations.StepOffsetsWrapAndAvoidTheUpdatedWord : Prop :=
  (∀ j d : Index, (idxSub j d).val = (j.val + 512 - d.val) % 512) ∧
  (∀ j : Index, idxSub j 3 ≠ j ∧ idxSub j 10 ≠ j ∧ idxSub j 511 ≠ j ∧ idxSub j 12 ≠ j)

/-- R63 to R65: the words of a key and the bytes of a keystream word are little-endian, and packing undoes unpacking. -/
def Obligations.ByteOrderIsLittleEndian : Prop :=
  (∀ b0 b1 b2 b3 : Byte, (le32 b0 b1 b2 b3).toNat = b0.toNat + 2 ^ 8 * b1.toNat + 2 ^ 16 * b2.toNat + 2 ^ 24 * b3.toNat) ∧
  (∀ (b : Vector Byte 16) (i : Fin 4), keystreamBytes (packQuad b)[i] =
    [b[4 * i.val], b[4 * i.val + 1], b[4 * i.val + 2], b[4 * i.val + 3]])

/-! ### The initializer -/

/-- R120 to R122: W has 1280 words, its first 16 are the key and the IV each twice, and every later word obeys the recurrence. -/
def Obligations.ExpansionTableObeysTheRecurrence : Prop :=
  ∀ kw vw : Quad,
    let W (i : Nat) : Word := (expansion kw vw).getD i 0
    (expansion kw vw).length = 1280 ∧
    (∀ i : Fin 4, W i.val = kw[i] ∧ W (i.val + 4) = kw[i] ∧ W (i.val + 8) = vw[i] ∧ W (i.val + 12) = vw[i]) ∧
    (∀ i : Nat, 16 ≤ i → i < 1280 →
      W i = f2 (W (i - 2)) + W (i - 7) + f1 (W (i - 15)) + W (i - 16) + BitVec.ofNat 32 i)

/-- R123: every word of P and Q is overwritten with its word of W. -/
def Obligations.TablesAreLoadedFromTheExpansion : Prop :=
  ∀ (w : List Word) (c : CoreState) (j : Index),
    tableRead (loadTables w c).P j = w.getD (j.val + 256) 0 ∧ tableRead (loadTables w c).Q j = w.getD (j.val + 768) 0

/-- R124: the warm-up of P. The word it leaves at j is computed from the words it left below j and the loaded words above, with
h1 reading the loaded Q; it writes P alone. -/
def Obligations.WarmUpOfPFeedsOutputsBack : Prop :=
  ∀ (c : CoreState) (j : Index),
    let new (i : Index) : Word := if i < j then tableRead (warmUpP c).P i else tableRead c.P i
    tableRead (warmUpP c).P j =
      (tableRead c.P j + g1 (new (idxSub j 3)) (new (idxSub j 10)) (new (idxSub j 511))) ^^^ h1 c.Q (new (idxSub j 12)) ∧
    warmUpP c = { c with P := (warmUpP c).P }

/-- R125: the warm-up of Q, as that of P, with h2 reading P; it writes Q alone; and the initializer runs it on what the whole warm-up
of P left. -/
def Obligations.WarmUpOfQFeedsOutputsBack : Prop :=
  ∀ (c : CoreState) (j : Index),
    let new (i : Index) : Word := if i < j then tableRead (warmUpQ c).Q i else tableRead c.Q i
    tableRead (warmUpQ c).Q j =
      (tableRead c.Q j + g2 (new (idxSub j 3)) (new (idxSub j 10)) (new (idxSub j 511))) ^^^ h2 c.P (new (idxSub j 12)) ∧
    warmUpQ c = { c with Q := (warmUpQ c).Q } ∧
    ∀ kw vw : Quad, (initializeTables kw vw c).Q = (warmUpQ (warmUpP (loadTables (expansion kw vw) c))).Q ∧
      (initializeTables kw vw c).P = (warmUpP (loadTables (expansion kw vw) c)).P

/-- R120 to R127: the initializer is its five steps in order, ends with CTR = 0, and writes no component but P, Q and CTR. -/
def Obligations.InitializerWritesTablesAndCounterOnly : Prop :=
  ∀ (kw vw : Quad) (c : CoreState),
    initializeTables kw vw c = { c with
      P := (warmUpP (loadTables (expansion kw vw) c)).P,
      Q := (warmUpQ (warmUpP (loadTables (expansion kw vw) c))).Q, ctr := 0#10 }

/-- R130: what INIT or RESYNC leaves in P, Q and CTR is a function of KEY and IV alone. -/
def Obligations.InitializationDependsOnKeyAndIvAlone : Prop :=
  ∀ c d : CoreState, (c.engine = .runInit ∨ c.engine = .runResync) → (d.engine = .runInit ∨ d.engine = .runResync) →
    c.key = d.key → c.iv = d.iv →
    (completeCommand c).P = (completeCommand d).P ∧ (completeCommand c).Q = (completeCommand d).Q ∧
    (completeCommand c).ctr = (completeCommand d).ctr

/-- R131: a RESYNC with iv2 after an INIT with the key gives the KBUF contents and the STATUS that an INIT with the key and iv2
gives, whatever CMD writes other than INIT and RESYNC follow both. -/
def Obligations.ResyncEqualsFreshInit : Prop :=
  ∀ s1 s2 : State, s1.core.busy = false → s1.core.keyed = true → s2.core.busy = false →
    s2.core.keyin = s1.core.key → s2.core.ivin = s1.core.ivin →
    ∃ t1 t2 : State, exec .resync s1 = .next t1 ∧ exec .init s2 = .next t2 ∧
      ∀ ws : List Word, (∀ w ∈ ws, decode w ≠ .ok .init ∧ decode w ≠ .ok .resync) →
        let c1 := (cmdSequence ws (engineTurn t1)).core
        let c2 := (cmdSequence ws (engineTurn t2)).core
        c1.kbuf = c2.kbuf ∧ statusWord c1 c1.ctr = statusWord c2 c2.ctr

/-- R132: two independently initialized engines produce identical keystream words for every step index. -/
def Obligations.SameKeyAndIvSameKeystream : Prop :=
  ∀ s1 s2 : State, s1.core.busy = false → s2.core.busy = false →
    s1.core.keyin = s2.core.keyin → s1.core.ivin = s2.core.ivin →
    ∃ t1 t2 : State, exec .init s1 = .next t1 ∧ exec .init s2 = .next t2 ∧
      ∀ t : Nat, keystreamWord (completeCommand t1.core) t = keystreamWord (completeCommand t2.core) t

/-! ### The stepper -/

/-- R140: a P-step writes P[j] alone among the tables and emits its word. -/
def Obligations.PStepUpdatesOneWordOfP : Prop :=
  ∀ c : CoreState, c.ctr.getLsbD 9 = false →
    let j := stepIndex c.ctr
    let d := keystreamStep c
    j.val = c.ctr.toNat % 512 ∧
    tableRead d.P j = tableRead c.P j +
      g1 (tableRead c.P (idxSub j 3)) (tableRead c.P (idxSub j 10)) (tableRead c.P (idxSub j 511)) ∧
    (∀ k : Index, k ≠ j → tableRead d.P k = tableRead c.P k) ∧ d.Q = c.Q ∧
    d.kbuf[kbufIndex c.ctr] = h1 c.Q (tableRead c.P (idxSub j 12)) ^^^ tableRead d.P j

/-- R141: a Q-step writes Q[j] alone among the tables and emits its word. -/
def Obligations.QStepUpdatesOneWordOfQ : Prop :=
  ∀ c : CoreState, c.ctr.getLsbD 9 = true →
    let j := stepIndex c.ctr
    let d := keystreamStep c
    j.val = c.ctr.toNat - 512 ∧
    tableRead d.Q j = tableRead c.Q j +
      g2 (tableRead c.Q (idxSub j 3)) (tableRead c.Q (idxSub j 10)) (tableRead c.Q (idxSub j 511)) ∧
    (∀ k : Index, k ≠ j → tableRead d.Q k = tableRead c.Q k) ∧ d.P = c.P ∧
    d.kbuf[kbufIndex c.ctr] = h2 c.P (tableRead c.Q (idxSub j 12)) ^^^ tableRead d.Q j

/-- R142, R143: a step advances CTR by 1 modulo 1024, writes the KBUF word at CTR[3:0] as it stood and no other, and no component
but P, Q, CTR and KBUF. -/
def Obligations.StepAdvancesCounterAndWritesOneKbufWord : Prop :=
  ∀ c : CoreState,
    let d := keystreamStep c
    d.ctr.toNat = (c.ctr.toNat + 1) % 1024 ∧ (kbufIndex c.ctr).val = c.ctr.toNat % 16 ∧
    (∀ k : Fin 16, k ≠ kbufIndex c.ctr → d.kbuf[k] = c.kbuf[k]) ∧
    d = { c with P := d.P, Q := d.Q, ctr := d.ctr, kbuf := d.kbuf }

/-- R143, R187: from CTR = 0, KBUF[t mod 16] holds keystream word t until word t + 16 overwrites it. -/
def Obligations.KbufHoldsTheSixteenMostRecentWords : Prop :=
  ∀ (c : CoreState) (t m : Nat), c.ctr = 0#10 → t < m → m ≤ t + 16 →
    (emit m c).kbuf[t % 16]'(Nat.mod_lt _ (by decide)) = keystreamWord c t

/-- R147: t words after an initialization CTR = t mod 1024; steps with t mod 1024 below 512 write only P, the others only Q. -/
def Obligations.CounterCountsWordsAndPhasesAlternate : Prop :=
  ∀ (c : CoreState) (t : Nat), c.ctr = 0#10 →
    (emit t c).ctr.toNat = t % 1024 ∧
    (t % 1024 < 512 → (emit (t + 1) c).Q = (emit t c).Q) ∧ (512 ≤ t % 1024 → (emit (t + 1) c).P = (emit t c).P)

/-- R146: CMD writes of GEN words, separated by NOPs and rejected words, leave CORE as one run of as many steps as they ask for
leaves it, but for ERRCODE. -/
def Obligations.EmissionIsContinuousAcrossCommands : Prop :=
  ∀ (s : State) (ws : List Word), s.core.engine = .idle → s.core.busy = false → s.core.ready = true →
    (∀ w ∈ ws, decode w ≠ .ok .init ∧ decode w ≠ .ok .resync) →
    let c := (cmdSequence ws s).core
    c = { emit (ws.map wordsAskedFor).sum s.core with errcode := c.errcode }

/-- R23, R148: a step of the machine leaves CTR, adds the count of a GEN it completes, or sets it to 0 at the completion of INIT or
RESYNC or at a reset. -/
def Obligations.CounterMovesForwardOnly : Prop :=
  ∀ s t : State, step s = .next t →
    t.core.ctr = s.core.ctr ∨
    (∃ n, s.core.engine = .runGen n ∧ s.turns = 0 ∧ t.core.ctr = s.core.ctr + BitVec.ofNat 10 n.toNat) ∨
    ((s.core.engine = .runInit ∨ s.core.engine = .runResync) ∧ s.turns = 0 ∧ t.core.ctr = 0#10) ∨
    ((∃ rest, s.inputs = .assertReset :: rest) ∧ t.core.ctr = 0#10)

/-! ### The register window -/

/-- R35, R41: the register at each 4-byte-aligned offset of the window. -/
def Obligations.RegisterWindowLayout : Prop :=
  ∀ base : Nat,
    busReg base (base + 0x00) 4 = some .cmd ∧ busReg base (base + 0x04) 4 = some .status ∧
    busReg base (base + 0x08) 4 = some .reserved ∧ busReg base (base + 0x0C) 4 = some .reserved ∧
    (∀ i : Fin 4, busReg base (base + 0x10 + 4 * i.val) 4 = some (.keyin i) ∧
      busReg base (base + 0x20 + 4 * i.val) 4 = some (.ivin i) ∧
      busReg base (base + 0x30 + 4 * i.val) 4 = some .reserved) ∧
    (∀ k : Fin 16, busReg base (base + 0x40 + 4 * k.val) 4 = some (.kbuf k))

/-- R67: in any turn of the host, while a command runs or not, a host access makes the host program fault exactly when it is not 32
bits wide at a 4-byte-aligned offset in [0x00, 0x7C]. -/
def Obligations.UnsupportedAccessesFault : Prop :=
  ∀ (s : State) (addr width : Nat) (name : Option String) (v : Word) (rest : List Input), hostHasTurn s →
    let ok := width = 4 ∧ s.base ≤ addr ∧ (addr - s.base) % 4 = 0 ∧ addr - s.base ≤ 0x7C
    (step { s with inputs := .memRead addr width name :: rest } = .fault .busError ↔ ¬ok) ∧
    (step { s with inputs := .memWrite addr width v :: rest } = .fault .busError ↔ ¬ok)

/-- R37: the fields of STATUS. While BUSY = 1 nothing is said of CTR's field, which is a free value (notes/assumptions/2.md). -/
def Obligations.StatusFields : Prop :=
  (∀ s : State,
    let v := (readReg .status s).1
    v.getLsbD 0 = s.core.busy ∧ v.getLsbD 1 = s.core.keyed ∧ v.getLsbD 2 = s.core.ready ∧
    (v.getLsbD 3 = true ↔ s.core.errcode ≠ 0#3) ∧ v.extractLsb' 4 3 = s.core.errcode ∧ v.extractLsb' 7 9 = 0#9 ∧
    v.extractLsb' 26 6 = 0#6 ∧ (s.core.busy = false → v.extractLsb' 16 10 = s.core.ctr)) ∧
  (∀ (s : State) (v : Word), writeReg .status v s = .next s) ∧ (readReg .status State.reset).1 = 0#32

/-- R40, R41, R68: a read changes no register; a reserved offset reads 0; KBUF reads as it stands while CORE is not busy, and the
read then changes nothing at all. -/
def Obligations.ReadsHaveNoSideEffects : Prop :=
  ∀ s : State, (∀ r : Reg, (readReg r s).2.core = s.core) ∧ readReg .reserved s = (0#32, s) ∧
    (s.core.busy = false → ∀ k : Fin 16, readReg (.kbuf k) s = (s.core.kbuf[k], s))

/-- R42: a write to STATUS, KBUF or a reserved offset changes no state and sets no error; a read of CMD, KEYIN or IVIN returns 0 and
changes no state. -/
def Obligations.WrongWayAccessesHaveNoEffect : Prop :=
  ∀ (s : State) (v : Word), writeReg .status v s = .next s ∧ writeReg .reserved v s = .next s ∧
    (∀ k : Fin 16, writeReg (.kbuf k) v s = .next s) ∧ readReg .cmd s = (0#32, s) ∧
    ∀ i : Fin 4, readReg (.keyin i) s = (0#32, s) ∧ readReg (.ivin i) s = (0#32, s)

/-- R38, R39: the staging registers: their offsets; a write of v sets one whole word and has no other effect; a read returns 0; each
word is 0 after reset. -/
def Obligations.StagingRegistersAreWriteOnly : Prop :=
  ∀ (s : State) (v : Word) (i : Fin 4),
    (busReg s.base (s.base + 0x10 + 4 * i.val) 4 = some (.keyin i) ∧
      writeReg (.keyin i) v s = .next { s with core := { s.core with keyin := s.core.keyin.set i.val v i.isLt } } ∧
      (readReg (.keyin i) s).1 = 0#32 ∧ State.reset.core.keyin[i] = 0#32) ∧
    (busReg s.base (s.base + 0x20 + 4 * i.val) 4 = some (.ivin i) ∧
      writeReg (.ivin i) v s = .next { s with core := { s.core with ivin := s.core.ivin.set i.val v i.isLt } } ∧
      (readReg (.ivin i) s).1 = 0#32 ∧ State.reset.core.ivin[i] = 0#32)

/-- R185: a staging write while a command runs does not affect the running command. -/
def Obligations.StagingWritesDoNotAffectTheRunningCommand : Prop :=
  ∀ (s : State) (v : Word) (i : Fin 4),
    engineTurn (writeKeyin i v s) = writeKeyin i v (engineTurn s) ∧
    engineTurn (writeIvin i v s) = writeIvin i v (engineTurn s)

/-- R88: each command's pseudo-statement writes that command's word to CMD; SETKEY and SETIV write their four words to KEYIN and
IVIN; WAIT and CHECK are inputs of their own (`WaitPollsUntilNotBusy`, `CheckFlagsANonzeroErrcode`). And a SETKEY or a SETIV that the
host has the turns for (notes/assumptions/3.md) takes four steps, leaves its words in KEYIN or IVIN and changes nothing else of
CORE. -/
def Obligations.PseudoStatementsExpand : Prop :=
  (∀ base : Nat,
    expandStmt base .nop = [.memWrite (base + 0x00) 4 (encode .nop)] ∧
    expandStmt base .init = [.memWrite (base + 0x00) 4 (encode .init)] ∧
    expandStmt base .resync = [.memWrite (base + 0x00) 4 (encode .resync)] ∧
    (∀ n : Fin 17, expandStmt base (.gen n) = [.memWrite (base + 0x00) 4 (encode (.gen (BitVec.ofNat 5 n.val)))]) ∧
    (∀ a b c d : Word, expandStmt base (.setKey a b c d) =
      [.memWrite (base + 0x10) 4 a, .memWrite (base + 0x14) 4 b, .memWrite (base + 0x18) 4 c, .memWrite (base + 0x1C) 4 d]) ∧
    (∀ a b c d : Word, expandStmt base (.setIv a b c d) =
      [.memWrite (base + 0x20) 4 a, .memWrite (base + 0x24) 4 b, .memWrite (base + 0x28) 4 c, .memWrite (base + 0x2C) 4 d]) ∧
    expandStmt base .wait = [.wait] ∧ expandStmt base .check = [.check]) ∧
  (∀ (s : State) (a b c d : Word), (s.core.engine = .idle ∨ 4 ≤ s.turns) →
    runSteps 4 { s with inputs := expandStmt s.base (.setKey a b c d) ++ s.inputs } =
      .next { s with core := { s.core with keyin := #v[a, b, c, d] }, turns := turnsAfter 4 s } ∧
    runSteps 4 { s with inputs := expandStmt s.base (.setIv a b c d) ++ s.inputs } =
      .next { s with core := { s.core with ivin := #v[a, b, c, d] }, turns := turnsAfter 4 s })

/-! ### The machine's steps -/

/-- A step runs the command decoded from the word the host writes to CMD, the write taken off the host's program; while another
command runs, one host turn is used up as well. -/
def Obligations.StepRunsTheDecodedCommand : Prop :=
  ∀ (s : State) (w : Word) (i : Instr) (rest : List Input), decode w = .ok i → s.inputs = .memWrite s.base 4 w :: rest →
    (s.core.engine = .idle → step s = exec i { s with inputs := rest }) ∧
    (s.core.engine ≠ .idle → 0 < s.turns → step s = exec i { s with inputs := rest, turns := s.turns - 1 })

/-- R69, R169: when a running command's host turns are used up, the next step completes it, all at once, and leaves CORE not
busy. -/
def Obligations.EngineTurnCompletesTheCommand : Prop :=
  ∀ s : State, s.core.engine ≠ .idle → s.turns = 0 →
    step s = .next { s with core := completeCommand s.core } ∧ (completeCommand s.core).busy = false ∧
    (completeCommand s.core).engine = .idle

/-- R88, R188: a WAIT after an accepted command ends, at the latest two steps after the host turns the command was given, with the
command completed. The host turns, and so the bound on the steps, are the model's free value (notes/assumptions/3.md). -/
def Obligations.WaitEndsWithTheCommandCompleted : Prop :=
  ∀ (s : State) (rest : List Input), s.core.engine ≠ .idle → s.core.busy = true → s.inputs = .wait :: rest →
    ∃ (k : Nat) (t : State), k ≤ s.turns + 2 ∧ runSteps k s = .next t ∧ t.inputs = rest ∧
      t.core = completeCommand s.core ∧ t.core.busy = false

/-- R183, R164, program L3-5: a GEN written right after an INIT, without a WAIT between, has both outcomes. If the free latency leaves
the host no turn (notes/assumptions/3.md), INIT completes first and the GEN is accepted; if it leaves one, the GEN is rejected with
BUSY and the INIT runs on. -/
def Obligations.UnwaitedGenHasTwoOutcomes : Prop :=
  ∀ (s : State) (rest : List Input), s.core.engine = .idle → s.core.busy = false →
    s.inputs = .memWrite s.base 4 0x00000001#32 :: .memWrite s.base 4 0x00000013#32 :: rest →
    ∃ t : State, step s = .next t ∧ t.turns = Config.latInit s.draws ∧
      (t.turns = 0 → ∃ u : State, runSteps 2 t = .next u ∧ u.inputs = rest ∧
        u.core = { completeCommand t.core with errcode := 0#3, busy := true, engine := .runGen 1 }) ∧
      (0 < t.turns → ∃ u : State, step t = .next u ∧ u.inputs = rest ∧ u.core = { t.core with errcode := 4#3 })

/-- R20, R21, R24, R25, R29: a step changes P or Q only as an engine's turn or a reset, KEY only as an accepted INIT or a reset, IV
only as an accepted INIT or RESYNC or a reset. -/
def Obligations.SecretsAreWrittenOnlyByCommandsAndReset : Prop :=
  ∀ s t : State, step s = .next t → (∀ rest, s.inputs ≠ .assertReset :: rest) →
    ((t.core.P ≠ s.core.P ∨ t.core.Q ≠ s.core.Q) → s.core.engine ≠ .idle ∧ s.turns = 0) ∧
    (t.core.key ≠ s.core.key → t.core.key = s.core.keyin ∧ s.core.busy = false ∧
      ∃ w rest, s.inputs = .memWrite s.base 4 w :: rest ∧ decode w = .ok .init) ∧
    (t.core.iv ≠ s.core.iv → t.core.iv = s.core.ivin ∧ s.core.busy = false ∧
      ∃ w rest, s.inputs = .memWrite s.base 4 w :: rest ∧ (decode w = .ok .init ∨ decode w = .ok .resync))

/-- R12, R29, R38, R39: a turn of the host tells it nothing of P, Q, KEY, IV, KEYIN or IVIN: from states that differ in those alone
it ends alike, in states that differ in those alone. -/
def Obligations.HostTurnRevealsNoSecret : Prop :=
  ∀ s t : State, hostEquiv s t →
    (∀ f, hostTurn s = .fault f → hostTurn t = .fault f) ∧
    (∀ u, hostTurn s = .next u → ∃ v, hostTurn t = .next v ∧ hostEquiv u v)

/-- R43, R180, R181: the reset input, in the host's turn, gives every component of CORE its reset value, whatever runs; the words the
spec leaves unspecified are not constrained. That the input is taken in a turn of the host, and that host and platform (inputs,
readData, named, programError, BASE) keep their own, is the model's choice (notes/assumptions/7.md). -/
def Obligations.ResetInputResetsEveryComponent : Prop :=
  ∀ (s : State) (rest : List Input), s.inputs = .assertReset :: rest → hostHasTurn s →
    ∃ t : State, step s = .next t ∧ t.core.busy = false ∧ t.core.keyed = false ∧ t.core.ready = false ∧
      t.core.errcode = 0#3 ∧ t.core.ctr = 0#10 ∧ t.core.keyin = Vector.replicate 4 0#32 ∧
      t.core.ivin = Vector.replicate 4 0#32 ∧ t.core.kbuf = Vector.replicate 16 0#32 ∧ t.core.engine = .idle ∧
      t.inputs = rest ∧ t.base = s.base ∧ t.readData = s.readData ∧ t.named = s.named ∧ t.programError = s.programError

/-- R43: the reset values the spec gives. -/
def Obligations.ResetStateHasTheStatedValues : Prop :=
  let c := State.reset.core
  c.ctr = 0#10 ∧ c.keyin = Vector.replicate 4 0#32 ∧ c.ivin = Vector.replicate 4 0#32 ∧ c.kbuf = Vector.replicate 16 0#32 ∧
  c.busy = false ∧ c.keyed = false ∧ c.ready = false ∧ c.errcode = 0#3 ∧ c.engine = .idle

/-! ### Whole-machine properties -/

/-- Every step keeps CORE in a legal state (`CoreState.legal`): flags and engine agree (R28, R31), ERRCODE is no reserved code (R160,
I7), KBUF is zero unless the tables are ready (R27), CTR is 0 until a first INIT. -/
def Obligations.EveryStepKeepsCoreLegal : Prop :=
  ∀ s t : State, s.core.legal = true → step s = .next t → t.core.legal = true

/-- The reset state is legal. -/
def Obligations.ResetStateIsLegal : Prop := State.reset.core.legal = true

/-- R67, R169: a host program of supported accesses runs for any number of steps without a fault, and BASE never changes. -/
def Obligations.SupportedProgramsNeverFault : Prop :=
  ∀ (k : Nat) (s : State), programSupported s = true →
    ∃ t : State, runSteps k s = .next t ∧ programSupported t = true ∧ t.base = s.base

/-- R182: from any state with the engine idle, the boot sequence ends, its CHECK finds no error and reads 0x00000006, and CORE
holds the state the initializer makes of the key and IV, with KBUF all zero, whatever the latency of INIT. -/
def Obligations.BootSequenceMakesCoreReady : Prop :=
  ∀ (s : State) (k0 k1 k2 k3 v0 v1 v2 v3 : Word), s.core.engine = .idle → s.core.busy = false → s.programError = false →
    s.inputs = expandProgram s.base [.setKey k0 k1 k2 k3, .setIv v0 v1 v2 v3, .init, .wait, .check] →
    ∃ (k : Nat) (t : State), runSteps k s = .next t ∧ t.inputs = [] ∧ t.programError = false ∧
      t.readData = 0x00000006#32 ∧ t.core.busy = false ∧ t.core.engine = .idle ∧ t.core.keyed = true ∧ t.core.ready = true ∧
      t.core.ctr = 0#10 ∧ t.core.kbuf = Vector.replicate 16 0#32 ∧ t.core.key = #v[k0, k1, k2, k3] ∧
      t.core.iv = #v[v0, v1, v2, v3] ∧
      t.core.P = (initializeTables #v[k0, k1, k2, k3] #v[v0, v1, v2, v3] s.core).P ∧
      t.core.Q = (initializeTables #v[k0, k1, k2, k3] #v[v0, v1, v2, v3] s.core).Q

/-! ### What a turn of the host leaves with the host -/

/-- R10, R12, R35, R40, R87: a host read that reaches register r goes on, records under its name, and as the last value read, what r
reads, and changes nothing else but the number of draws and the host turns (notes/assumptions/2.md, notes/assumptions/3.md). A read of
STATUS so gives the flags and, while CORE is not busy, CTR; a read of KBUFk, while CORE is not busy, KBUF[k]. -/
def Obligations.HostReadsRecordTheRegisterValue : Prop :=
  ∀ (s : State) (r : Reg) (addr : Nat) (name : Option String) (rest : List Input), hostHasTurn s →
    s.inputs = .memRead addr 4 name :: rest → busReg s.base addr 4 = some r →
    ∃ t : State, step s = .next t ∧ t.readData = (readReg r s).1 ∧
      t.named = name.elim s.named (fun n => (n, (readReg r s).1) :: s.named) ∧
      t = { s with inputs := rest, turns := turnsAfter 1 s, readData := t.readData, named := t.named, draws := t.draws } ∧
      (addr = s.base + 0x04 → ∃ x : BitVec 10, t.readData = statusWord s.core x ∧ (s.core.busy = false → x = s.core.ctr)) ∧
      (∀ k : Fin 16, addr = s.base + 0x40 + 4 * k.val → s.core.busy = false → t.readData = s.core.kbuf[k])

/-- R10, R35, R36: a host write that reaches register r is that register's write, the write taken off the host's inputs and a host
turn used up while a command runs (notes/assumptions/3.md). -/
def Obligations.HostWritesReachTheRegister : Prop :=
  ∀ (s : State) (r : Reg) (addr : Nat) (v : Word) (rest : List Input), hostHasTurn s →
    s.inputs = .memWrite addr 4 v :: rest → busReg s.base addr 4 = some r →
    step s = writeReg r v { s with inputs := rest, turns := turnsAfter 1 s }

/-- R88: CHECK reads STATUS and puts the program in error exactly when ERRCODE is not 0 (or it was in error before); it changes nothing
of CORE. That the program goes on after an error is the model's choice (notes/assumptions/5.md). -/
def Obligations.CheckFlagsANonzeroErrcode : Prop :=
  ∀ (s : State) (rest : List Input), hostHasTurn s → s.inputs = .check :: rest →
    ∃ t : State, step s = .next t ∧ (t.programError = true ↔ (s.programError = true ∨ s.core.errcode ≠ 0#3)) ∧
      (∃ x : BitVec 10, t.readData = statusWord s.core x ∧ (s.core.busy = false → x = s.core.ctr)) ∧
      t = { s with inputs := rest, turns := turnsAfter 1 s, readData := t.readData, programError := t.programError,
                   draws := t.draws }

/-- R88, R183: one poll of WAIT reads STATUS, stays next while BUSY is 1 and is over at once when BUSY is 0; it changes nothing of
CORE. That one poll takes one turn of the host is the model's choice (notes/assumptions/5.md). -/
def Obligations.WaitPollsUntilNotBusy : Prop :=
  ∀ (s : State) (rest : List Input), hostHasTurn s → s.inputs = .wait :: rest →
    ∃ t : State, step s = .next t ∧ (s.core.busy = true → t.inputs = .wait :: rest) ∧ (s.core.busy = false → t.inputs = rest) ∧
      (∃ x : BitVec 10, t.readData = statusWord s.core x ∧ (s.core.busy = false → x = s.core.ctr)) ∧
      t = { s with inputs := t.inputs, turns := turnsAfter 1 s, readData := t.readData, draws := t.draws }
end

