-- ==== Sys2Proof/Laws/State.lean ====
section
/-! SUPPORT. One lemma per field per update of the state, so that no proof unfolds a record update. -/

namespace Sys2Proof.Machine

@[simp] theorem emitWord_P (c : CoreState) (s : Word) : (emitWord c s).P = c.P := rfl
@[simp] theorem emitWord_Q (c : CoreState) (s : Word) : (emitWord c s).Q = c.Q := rfl
@[simp] theorem emitWord_ctr (c : CoreState) (s : Word) : (emitWord c s).ctr = c.ctr := rfl
@[simp] theorem emitWord_key (c : CoreState) (s : Word) : (emitWord c s).key = c.key := rfl
@[simp] theorem emitWord_iv (c : CoreState) (s : Word) : (emitWord c s).iv = c.iv := rfl
@[simp] theorem emitWord_keyin (c : CoreState) (s : Word) : (emitWord c s).keyin = c.keyin := rfl
@[simp] theorem emitWord_ivin (c : CoreState) (s : Word) : (emitWord c s).ivin = c.ivin := rfl
@[simp] theorem emitWord_kbuf (c : CoreState) (s : Word) : (emitWord c s).kbuf = c.kbuf.set (kbufIndex c.ctr).val s (kbufIndex c.ctr).isLt := rfl
@[simp] theorem emitWord_busy (c : CoreState) (s : Word) : (emitWord c s).busy = c.busy := rfl
@[simp] theorem emitWord_keyed (c : CoreState) (s : Word) : (emitWord c s).keyed = c.keyed := rfl
@[simp] theorem emitWord_ready (c : CoreState) (s : Word) : (emitWord c s).ready = c.ready := rfl
@[simp] theorem emitWord_errcode (c : CoreState) (s : Word) : (emitWord c s).errcode = c.errcode := rfl
@[simp] theorem emitWord_engine (c : CoreState) (s : Word) : (emitWord c s).engine = c.engine := rfl

@[simp] theorem pWrite_P (c : CoreState) (j : Index) : (pWrite c j).P = tableWrite c.P j (pUpdate c.P j) := rfl
@[simp] theorem pWrite_Q (c : CoreState) (j : Index) : (pWrite c j).Q = c.Q := rfl
@[simp] theorem pWrite_ctr (c : CoreState) (j : Index) : (pWrite c j).ctr = c.ctr := rfl
@[simp] theorem pWrite_key (c : CoreState) (j : Index) : (pWrite c j).key = c.key := rfl
@[simp] theorem pWrite_iv (c : CoreState) (j : Index) : (pWrite c j).iv = c.iv := rfl
@[simp] theorem pWrite_keyin (c : CoreState) (j : Index) : (pWrite c j).keyin = c.keyin := rfl
@[simp] theorem pWrite_ivin (c : CoreState) (j : Index) : (pWrite c j).ivin = c.ivin := rfl
@[simp] theorem pWrite_kbuf (c : CoreState) (j : Index) : (pWrite c j).kbuf = c.kbuf := rfl
@[simp] theorem pWrite_busy (c : CoreState) (j : Index) : (pWrite c j).busy = c.busy := rfl
@[simp] theorem pWrite_keyed (c : CoreState) (j : Index) : (pWrite c j).keyed = c.keyed := rfl
@[simp] theorem pWrite_ready (c : CoreState) (j : Index) : (pWrite c j).ready = c.ready := rfl
@[simp] theorem pWrite_errcode (c : CoreState) (j : Index) : (pWrite c j).errcode = c.errcode := rfl
@[simp] theorem pWrite_engine (c : CoreState) (j : Index) : (pWrite c j).engine = c.engine := rfl

@[simp] theorem qWrite_P (c : CoreState) (j : Index) : (qWrite c j).P = c.P := rfl
@[simp] theorem qWrite_Q (c : CoreState) (j : Index) : (qWrite c j).Q = tableWrite c.Q j (qUpdate c.Q j) := rfl
@[simp] theorem qWrite_ctr (c : CoreState) (j : Index) : (qWrite c j).ctr = c.ctr := rfl
@[simp] theorem qWrite_key (c : CoreState) (j : Index) : (qWrite c j).key = c.key := rfl
@[simp] theorem qWrite_iv (c : CoreState) (j : Index) : (qWrite c j).iv = c.iv := rfl
@[simp] theorem qWrite_keyin (c : CoreState) (j : Index) : (qWrite c j).keyin = c.keyin := rfl
@[simp] theorem qWrite_ivin (c : CoreState) (j : Index) : (qWrite c j).ivin = c.ivin := rfl
@[simp] theorem qWrite_kbuf (c : CoreState) (j : Index) : (qWrite c j).kbuf = c.kbuf := rfl
@[simp] theorem qWrite_busy (c : CoreState) (j : Index) : (qWrite c j).busy = c.busy := rfl
@[simp] theorem qWrite_keyed (c : CoreState) (j : Index) : (qWrite c j).keyed = c.keyed := rfl
@[simp] theorem qWrite_ready (c : CoreState) (j : Index) : (qWrite c j).ready = c.ready := rfl
@[simp] theorem qWrite_errcode (c : CoreState) (j : Index) : (qWrite c j).errcode = c.errcode := rfl
@[simp] theorem qWrite_engine (c : CoreState) (j : Index) : (qWrite c j).engine = c.engine := rfl

@[simp] theorem advanceCtr_P (c : CoreState) : (advanceCtr c).P = c.P := rfl
@[simp] theorem advanceCtr_Q (c : CoreState) : (advanceCtr c).Q = c.Q := rfl
@[simp] theorem advanceCtr_ctr (c : CoreState) : (advanceCtr c).ctr = nextCtr c.ctr := rfl
@[simp] theorem advanceCtr_key (c : CoreState) : (advanceCtr c).key = c.key := rfl
@[simp] theorem advanceCtr_iv (c : CoreState) : (advanceCtr c).iv = c.iv := rfl
@[simp] theorem advanceCtr_keyin (c : CoreState) : (advanceCtr c).keyin = c.keyin := rfl
@[simp] theorem advanceCtr_ivin (c : CoreState) : (advanceCtr c).ivin = c.ivin := rfl
@[simp] theorem advanceCtr_kbuf (c : CoreState) : (advanceCtr c).kbuf = c.kbuf := rfl
@[simp] theorem advanceCtr_busy (c : CoreState) : (advanceCtr c).busy = c.busy := rfl
@[simp] theorem advanceCtr_keyed (c : CoreState) : (advanceCtr c).keyed = c.keyed := rfl
@[simp] theorem advanceCtr_ready (c : CoreState) : (advanceCtr c).ready = c.ready := rfl
@[simp] theorem advanceCtr_errcode (c : CoreState) : (advanceCtr c).errcode = c.errcode := rfl
@[simp] theorem advanceCtr_engine (c : CoreState) : (advanceCtr c).engine = c.engine := rfl

@[simp] theorem latchKey_P (c : CoreState) : (latchKey c).P = c.P := rfl
@[simp] theorem latchKey_Q (c : CoreState) : (latchKey c).Q = c.Q := rfl
@[simp] theorem latchKey_ctr (c : CoreState) : (latchKey c).ctr = c.ctr := rfl
@[simp] theorem latchKey_key (c : CoreState) : (latchKey c).key = c.keyin := rfl
@[simp] theorem latchKey_iv (c : CoreState) : (latchKey c).iv = c.iv := rfl
@[simp] theorem latchKey_keyin (c : CoreState) : (latchKey c).keyin = c.keyin := rfl
@[simp] theorem latchKey_ivin (c : CoreState) : (latchKey c).ivin = c.ivin := rfl
@[simp] theorem latchKey_kbuf (c : CoreState) : (latchKey c).kbuf = c.kbuf := rfl
@[simp] theorem latchKey_busy (c : CoreState) : (latchKey c).busy = c.busy := rfl
@[simp] theorem latchKey_keyed (c : CoreState) : (latchKey c).keyed = c.keyed := rfl
@[simp] theorem latchKey_ready (c : CoreState) : (latchKey c).ready = c.ready := rfl
@[simp] theorem latchKey_errcode (c : CoreState) : (latchKey c).errcode = c.errcode := rfl
@[simp] theorem latchKey_engine (c : CoreState) : (latchKey c).engine = c.engine := rfl

@[simp] theorem latchIv_P (c : CoreState) : (latchIv c).P = c.P := rfl
@[simp] theorem latchIv_Q (c : CoreState) : (latchIv c).Q = c.Q := rfl
@[simp] theorem latchIv_ctr (c : CoreState) : (latchIv c).ctr = c.ctr := rfl
@[simp] theorem latchIv_key (c : CoreState) : (latchIv c).key = c.key := rfl
@[simp] theorem latchIv_iv (c : CoreState) : (latchIv c).iv = c.ivin := rfl
@[simp] theorem latchIv_keyin (c : CoreState) : (latchIv c).keyin = c.keyin := rfl
@[simp] theorem latchIv_ivin (c : CoreState) : (latchIv c).ivin = c.ivin := rfl
@[simp] theorem latchIv_kbuf (c : CoreState) : (latchIv c).kbuf = c.kbuf := rfl
@[simp] theorem latchIv_busy (c : CoreState) : (latchIv c).busy = c.busy := rfl
@[simp] theorem latchIv_keyed (c : CoreState) : (latchIv c).keyed = c.keyed := rfl
@[simp] theorem latchIv_ready (c : CoreState) : (latchIv c).ready = c.ready := rfl
@[simp] theorem latchIv_errcode (c : CoreState) : (latchIv c).errcode = c.errcode := rfl
@[simp] theorem latchIv_engine (c : CoreState) : (latchIv c).engine = c.engine := rfl

@[simp] theorem startEngine_P (e : Engine) (c : CoreState) : (startEngine e c).P = c.P := rfl
@[simp] theorem startEngine_Q (e : Engine) (c : CoreState) : (startEngine e c).Q = c.Q := rfl
@[simp] theorem startEngine_ctr (e : Engine) (c : CoreState) : (startEngine e c).ctr = c.ctr := rfl
@[simp] theorem startEngine_key (e : Engine) (c : CoreState) : (startEngine e c).key = c.key := rfl
@[simp] theorem startEngine_iv (e : Engine) (c : CoreState) : (startEngine e c).iv = c.iv := rfl
@[simp] theorem startEngine_keyin (e : Engine) (c : CoreState) : (startEngine e c).keyin = c.keyin := rfl
@[simp] theorem startEngine_ivin (e : Engine) (c : CoreState) : (startEngine e c).ivin = c.ivin := rfl
@[simp] theorem startEngine_kbuf (e : Engine) (c : CoreState) : (startEngine e c).kbuf = c.kbuf := rfl
@[simp] theorem startEngine_busy (e : Engine) (c : CoreState) : (startEngine e c).busy = true := rfl
@[simp] theorem startEngine_keyed (e : Engine) (c : CoreState) : (startEngine e c).keyed = c.keyed := rfl
@[simp] theorem startEngine_ready (e : Engine) (c : CoreState) : (startEngine e c).ready = c.ready := rfl
@[simp] theorem startEngine_errcode (e : Engine) (c : CoreState) : (startEngine e c).errcode = errOk := rfl
@[simp] theorem startEngine_engine (e : Engine) (c : CoreState) : (startEngine e c).engine = e := rfl

@[simp] theorem stopEngine_P (c : CoreState) : (stopEngine c).P = c.P := rfl
@[simp] theorem stopEngine_Q (c : CoreState) : (stopEngine c).Q = c.Q := rfl
@[simp] theorem stopEngine_ctr (c : CoreState) : (stopEngine c).ctr = c.ctr := rfl
@[simp] theorem stopEngine_key (c : CoreState) : (stopEngine c).key = c.key := rfl
@[simp] theorem stopEngine_iv (c : CoreState) : (stopEngine c).iv = c.iv := rfl
@[simp] theorem stopEngine_keyin (c : CoreState) : (stopEngine c).keyin = c.keyin := rfl
@[simp] theorem stopEngine_ivin (c : CoreState) : (stopEngine c).ivin = c.ivin := rfl
@[simp] theorem stopEngine_kbuf (c : CoreState) : (stopEngine c).kbuf = c.kbuf := rfl
@[simp] theorem stopEngine_busy (c : CoreState) : (stopEngine c).busy = false := rfl
@[simp] theorem stopEngine_keyed (c : CoreState) : (stopEngine c).keyed = c.keyed := rfl
@[simp] theorem stopEngine_ready (c : CoreState) : (stopEngine c).ready = c.ready := rfl
@[simp] theorem stopEngine_errcode (c : CoreState) : (stopEngine c).errcode = c.errcode := rfl
@[simp] theorem stopEngine_engine (c : CoreState) : (stopEngine c).engine = .idle := rfl

@[simp] theorem loadTables_P (w : List Word) (c : CoreState) : (loadTables w c).P = tableOf fun j => (w.drop 256).getD j.val 0 := rfl
@[simp] theorem loadTables_Q (w : List Word) (c : CoreState) : (loadTables w c).Q = tableOf fun j => (w.drop 768).getD j.val 0 := rfl
@[simp] theorem loadTables_ctr (w : List Word) (c : CoreState) : (loadTables w c).ctr = c.ctr := rfl
@[simp] theorem loadTables_key (w : List Word) (c : CoreState) : (loadTables w c).key = c.key := rfl
@[simp] theorem loadTables_iv (w : List Word) (c : CoreState) : (loadTables w c).iv = c.iv := rfl
@[simp] theorem loadTables_keyin (w : List Word) (c : CoreState) : (loadTables w c).keyin = c.keyin := rfl
@[simp] theorem loadTables_ivin (w : List Word) (c : CoreState) : (loadTables w c).ivin = c.ivin := rfl
@[simp] theorem loadTables_kbuf (w : List Word) (c : CoreState) : (loadTables w c).kbuf = c.kbuf := rfl
@[simp] theorem loadTables_busy (w : List Word) (c : CoreState) : (loadTables w c).busy = c.busy := rfl
@[simp] theorem loadTables_keyed (w : List Word) (c : CoreState) : (loadTables w c).keyed = c.keyed := rfl
@[simp] theorem loadTables_ready (w : List Word) (c : CoreState) : (loadTables w c).ready = c.ready := rfl
@[simp] theorem loadTables_errcode (w : List Word) (c : CoreState) : (loadTables w c).errcode = c.errcode := rfl
@[simp] theorem loadTables_engine (w : List Word) (c : CoreState) : (loadTables w c).engine = c.engine := rfl

@[simp] theorem warmUpP_P (c : CoreState) : (warmUpP c).P = forTable (warmP c.Q) c.P := rfl
@[simp] theorem warmUpP_Q (c : CoreState) : (warmUpP c).Q = c.Q := rfl
@[simp] theorem warmUpP_ctr (c : CoreState) : (warmUpP c).ctr = c.ctr := rfl
@[simp] theorem warmUpP_key (c : CoreState) : (warmUpP c).key = c.key := rfl
@[simp] theorem warmUpP_iv (c : CoreState) : (warmUpP c).iv = c.iv := rfl
@[simp] theorem warmUpP_keyin (c : CoreState) : (warmUpP c).keyin = c.keyin := rfl
@[simp] theorem warmUpP_ivin (c : CoreState) : (warmUpP c).ivin = c.ivin := rfl
@[simp] theorem warmUpP_kbuf (c : CoreState) : (warmUpP c).kbuf = c.kbuf := rfl
@[simp] theorem warmUpP_busy (c : CoreState) : (warmUpP c).busy = c.busy := rfl
@[simp] theorem warmUpP_keyed (c : CoreState) : (warmUpP c).keyed = c.keyed := rfl
@[simp] theorem warmUpP_ready (c : CoreState) : (warmUpP c).ready = c.ready := rfl
@[simp] theorem warmUpP_errcode (c : CoreState) : (warmUpP c).errcode = c.errcode := rfl
@[simp] theorem warmUpP_engine (c : CoreState) : (warmUpP c).engine = c.engine := rfl

@[simp] theorem warmUpQ_P (c : CoreState) : (warmUpQ c).P = c.P := rfl
@[simp] theorem warmUpQ_Q (c : CoreState) : (warmUpQ c).Q = forTable (warmQ c.P) c.Q := rfl
@[simp] theorem warmUpQ_ctr (c : CoreState) : (warmUpQ c).ctr = c.ctr := rfl
@[simp] theorem warmUpQ_key (c : CoreState) : (warmUpQ c).key = c.key := rfl
@[simp] theorem warmUpQ_iv (c : CoreState) : (warmUpQ c).iv = c.iv := rfl
@[simp] theorem warmUpQ_keyin (c : CoreState) : (warmUpQ c).keyin = c.keyin := rfl
@[simp] theorem warmUpQ_ivin (c : CoreState) : (warmUpQ c).ivin = c.ivin := rfl
@[simp] theorem warmUpQ_kbuf (c : CoreState) : (warmUpQ c).kbuf = c.kbuf := rfl
@[simp] theorem warmUpQ_busy (c : CoreState) : (warmUpQ c).busy = c.busy := rfl
@[simp] theorem warmUpQ_keyed (c : CoreState) : (warmUpQ c).keyed = c.keyed := rfl
@[simp] theorem warmUpQ_ready (c : CoreState) : (warmUpQ c).ready = c.ready := rfl
@[simp] theorem warmUpQ_errcode (c : CoreState) : (warmUpQ c).errcode = c.errcode := rfl
@[simp] theorem warmUpQ_engine (c : CoreState) : (warmUpQ c).engine = c.engine := rfl

@[simp] theorem zeroCtr_P (c : CoreState) : (zeroCtr c).P = c.P := rfl
@[simp] theorem zeroCtr_Q (c : CoreState) : (zeroCtr c).Q = c.Q := rfl
@[simp] theorem zeroCtr_ctr (c : CoreState) : (zeroCtr c).ctr = 0 := rfl
@[simp] theorem zeroCtr_key (c : CoreState) : (zeroCtr c).key = c.key := rfl
@[simp] theorem zeroCtr_iv (c : CoreState) : (zeroCtr c).iv = c.iv := rfl
@[simp] theorem zeroCtr_keyin (c : CoreState) : (zeroCtr c).keyin = c.keyin := rfl
@[simp] theorem zeroCtr_ivin (c : CoreState) : (zeroCtr c).ivin = c.ivin := rfl
@[simp] theorem zeroCtr_kbuf (c : CoreState) : (zeroCtr c).kbuf = c.kbuf := rfl
@[simp] theorem zeroCtr_busy (c : CoreState) : (zeroCtr c).busy = c.busy := rfl
@[simp] theorem zeroCtr_keyed (c : CoreState) : (zeroCtr c).keyed = c.keyed := rfl
@[simp] theorem zeroCtr_ready (c : CoreState) : (zeroCtr c).ready = c.ready := rfl
@[simp] theorem zeroCtr_errcode (c : CoreState) : (zeroCtr c).errcode = c.errcode := rfl
@[simp] theorem zeroCtr_engine (c : CoreState) : (zeroCtr c).engine = c.engine := rfl

@[simp] theorem acceptInit_P (c : CoreState) : (acceptInit c).P = c.P := rfl
@[simp] theorem acceptInit_Q (c : CoreState) : (acceptInit c).Q = c.Q := rfl
@[simp] theorem acceptInit_ctr (c : CoreState) : (acceptInit c).ctr = c.ctr := rfl
@[simp] theorem acceptInit_key (c : CoreState) : (acceptInit c).key = c.keyin := rfl
@[simp] theorem acceptInit_iv (c : CoreState) : (acceptInit c).iv = c.ivin := rfl
@[simp] theorem acceptInit_keyin (c : CoreState) : (acceptInit c).keyin = c.keyin := rfl
@[simp] theorem acceptInit_ivin (c : CoreState) : (acceptInit c).ivin = c.ivin := rfl
@[simp] theorem acceptInit_kbuf (c : CoreState) : (acceptInit c).kbuf = clearedKbuf := rfl
@[simp] theorem acceptInit_busy (c : CoreState) : (acceptInit c).busy = true := rfl
@[simp] theorem acceptInit_keyed (c : CoreState) : (acceptInit c).keyed = true := rfl
@[simp] theorem acceptInit_ready (c : CoreState) : (acceptInit c).ready = false := rfl
@[simp] theorem acceptInit_errcode (c : CoreState) : (acceptInit c).errcode = errOk := rfl
@[simp] theorem acceptInit_engine (c : CoreState) : (acceptInit c).engine = .runInit := rfl

@[simp] theorem acceptResync_P (c : CoreState) : (acceptResync c).P = c.P := rfl
@[simp] theorem acceptResync_Q (c : CoreState) : (acceptResync c).Q = c.Q := rfl
@[simp] theorem acceptResync_ctr (c : CoreState) : (acceptResync c).ctr = c.ctr := rfl
@[simp] theorem acceptResync_key (c : CoreState) : (acceptResync c).key = c.key := rfl
@[simp] theorem acceptResync_iv (c : CoreState) : (acceptResync c).iv = c.ivin := rfl
@[simp] theorem acceptResync_keyin (c : CoreState) : (acceptResync c).keyin = c.keyin := rfl
@[simp] theorem acceptResync_ivin (c : CoreState) : (acceptResync c).ivin = c.ivin := rfl
@[simp] theorem acceptResync_kbuf (c : CoreState) : (acceptResync c).kbuf = clearedKbuf := rfl
@[simp] theorem acceptResync_busy (c : CoreState) : (acceptResync c).busy = true := rfl
@[simp] theorem acceptResync_keyed (c : CoreState) : (acceptResync c).keyed = c.keyed := rfl
@[simp] theorem acceptResync_ready (c : CoreState) : (acceptResync c).ready = false := rfl
@[simp] theorem acceptResync_errcode (c : CoreState) : (acceptResync c).errcode = errOk := rfl
@[simp] theorem acceptResync_engine (c : CoreState) : (acceptResync c).engine = .runResync := rfl

@[simp] theorem raiseCmdError_core (code : BitVec 3) (s : State) : (raiseCmdError code s).core = { s.core with errcode := code } := rfl
@[simp] theorem raiseCmdError_base (code : BitVec 3) (s : State) : (raiseCmdError code s).base = s.base := rfl
@[simp] theorem raiseCmdError_inputs (code : BitVec 3) (s : State) : (raiseCmdError code s).inputs = s.inputs := rfl
@[simp] theorem raiseCmdError_readData (code : BitVec 3) (s : State) : (raiseCmdError code s).readData = s.readData := rfl
@[simp] theorem raiseCmdError_named (code : BitVec 3) (s : State) : (raiseCmdError code s).named = s.named := rfl
@[simp] theorem raiseCmdError_programError (code : BitVec 3) (s : State) : (raiseCmdError code s).programError = s.programError := rfl
@[simp] theorem raiseCmdError_turns (code : BitVec 3) (s : State) : (raiseCmdError code s).turns = s.turns := rfl
@[simp] theorem raiseCmdError_draws (code : BitVec 3) (s : State) : (raiseCmdError code s).draws = s.draws := rfl

@[simp] theorem afterDraw_core (s : State) : (afterDraw s).core = s.core := rfl
@[simp] theorem afterDraw_base (s : State) : (afterDraw s).base = s.base := rfl
@[simp] theorem afterDraw_inputs (s : State) : (afterDraw s).inputs = s.inputs := rfl
@[simp] theorem afterDraw_readData (s : State) : (afterDraw s).readData = s.readData := rfl
@[simp] theorem afterDraw_named (s : State) : (afterDraw s).named = s.named := rfl
@[simp] theorem afterDraw_programError (s : State) : (afterDraw s).programError = s.programError := rfl
@[simp] theorem afterDraw_turns (s : State) : (afterDraw s).turns = s.turns := rfl
@[simp] theorem afterDraw_draws (s : State) : (afterDraw s).draws = s.draws + 1 := rfl

@[simp] theorem setTurns_core (t : Nat) (s : State) : (setTurns t s).core = s.core := rfl
@[simp] theorem setTurns_base (t : Nat) (s : State) : (setTurns t s).base = s.base := rfl
@[simp] theorem setTurns_inputs (t : Nat) (s : State) : (setTurns t s).inputs = s.inputs := rfl
@[simp] theorem setTurns_readData (t : Nat) (s : State) : (setTurns t s).readData = s.readData := rfl
@[simp] theorem setTurns_named (t : Nat) (s : State) : (setTurns t s).named = s.named := rfl
@[simp] theorem setTurns_programError (t : Nat) (s : State) : (setTurns t s).programError = s.programError := rfl
@[simp] theorem setTurns_turns (t : Nat) (s : State) : (setTurns t s).turns = t := rfl
@[simp] theorem setTurns_draws (t : Nat) (s : State) : (setTurns t s).draws = s.draws + 1 := rfl

@[simp] theorem applyReset_core (s : State) : (applyReset s).core = CoreState.afterReset s.draws := rfl
@[simp] theorem applyReset_base (s : State) : (applyReset s).base = s.base := rfl
@[simp] theorem applyReset_inputs (s : State) : (applyReset s).inputs = s.inputs := rfl
@[simp] theorem applyReset_readData (s : State) : (applyReset s).readData = s.readData := rfl
@[simp] theorem applyReset_named (s : State) : (applyReset s).named = s.named := rfl
@[simp] theorem applyReset_programError (s : State) : (applyReset s).programError = s.programError := rfl
@[simp] theorem applyReset_turns (s : State) : (applyReset s).turns = 0 := rfl
@[simp] theorem applyReset_draws (s : State) : (applyReset s).draws = s.draws + CoreState.resetDraws := rfl

@[simp] theorem recordRead_core (name : Option String) (v : Word) (s : State) : (recordRead name v s).core = s.core := rfl
@[simp] theorem recordRead_base (name : Option String) (v : Word) (s : State) : (recordRead name v s).base = s.base := rfl
@[simp] theorem recordRead_inputs (name : Option String) (v : Word) (s : State) : (recordRead name v s).inputs = s.inputs := rfl
@[simp] theorem recordRead_readData (name : Option String) (v : Word) (s : State) : (recordRead name v s).readData = v := rfl
@[simp] theorem recordRead_named (name : Option String) (v : Word) (s : State) : (recordRead name v s).named = match name with | some n => (n, v) :: s.named | none => s.named := rfl
@[simp] theorem recordRead_programError (name : Option String) (v : Word) (s : State) : (recordRead name v s).programError = s.programError := rfl
@[simp] theorem recordRead_turns (name : Option String) (v : Word) (s : State) : (recordRead name v s).turns = s.turns := rfl
@[simp] theorem recordRead_draws (name : Option String) (v : Word) (s : State) : (recordRead name v s).draws = s.draws := rfl

@[simp] theorem writeKeyin_core (i : Fin 4) (v : Word) (s : State) : (writeKeyin i v s).core = { s.core with keyin := s.core.keyin.set i.val v i.isLt } := rfl
@[simp] theorem writeKeyin_base (i : Fin 4) (v : Word) (s : State) : (writeKeyin i v s).base = s.base := rfl
@[simp] theorem writeKeyin_inputs (i : Fin 4) (v : Word) (s : State) : (writeKeyin i v s).inputs = s.inputs := rfl
@[simp] theorem writeKeyin_readData (i : Fin 4) (v : Word) (s : State) : (writeKeyin i v s).readData = s.readData := rfl
@[simp] theorem writeKeyin_named (i : Fin 4) (v : Word) (s : State) : (writeKeyin i v s).named = s.named := rfl
@[simp] theorem writeKeyin_programError (i : Fin 4) (v : Word) (s : State) : (writeKeyin i v s).programError = s.programError := rfl
@[simp] theorem writeKeyin_turns (i : Fin 4) (v : Word) (s : State) : (writeKeyin i v s).turns = s.turns := rfl
@[simp] theorem writeKeyin_draws (i : Fin 4) (v : Word) (s : State) : (writeKeyin i v s).draws = s.draws := rfl

@[simp] theorem writeIvin_core (i : Fin 4) (v : Word) (s : State) : (writeIvin i v s).core = { s.core with ivin := s.core.ivin.set i.val v i.isLt } := rfl
@[simp] theorem writeIvin_base (i : Fin 4) (v : Word) (s : State) : (writeIvin i v s).base = s.base := rfl
@[simp] theorem writeIvin_inputs (i : Fin 4) (v : Word) (s : State) : (writeIvin i v s).inputs = s.inputs := rfl
@[simp] theorem writeIvin_readData (i : Fin 4) (v : Word) (s : State) : (writeIvin i v s).readData = s.readData := rfl
@[simp] theorem writeIvin_named (i : Fin 4) (v : Word) (s : State) : (writeIvin i v s).named = s.named := rfl
@[simp] theorem writeIvin_programError (i : Fin 4) (v : Word) (s : State) : (writeIvin i v s).programError = s.programError := rfl
@[simp] theorem writeIvin_turns (i : Fin 4) (v : Word) (s : State) : (writeIvin i v s).turns = s.turns := rfl
@[simp] theorem writeIvin_draws (i : Fin 4) (v : Word) (s : State) : (writeIvin i v s).draws = s.draws := rfl

@[simp] theorem engineTurn_core (s : State) : (engineTurn s).core = completeCommand s.core := rfl
@[simp] theorem engineTurn_base (s : State) : (engineTurn s).base = s.base := rfl
@[simp] theorem engineTurn_inputs (s : State) : (engineTurn s).inputs = s.inputs := rfl
@[simp] theorem engineTurn_readData (s : State) : (engineTurn s).readData = s.readData := rfl
@[simp] theorem engineTurn_named (s : State) : (engineTurn s).named = s.named := rfl
@[simp] theorem engineTurn_programError (s : State) : (engineTurn s).programError = s.programError := rfl
@[simp] theorem engineTurn_turns (s : State) : (engineTurn s).turns = s.turns := rfl
@[simp] theorem engineTurn_draws (s : State) : (engineTurn s).draws = s.draws := rfl

/-- The components a reset leaves specified (R43). -/
@[simp] theorem afterReset_ctr (d : Nat) : (CoreState.afterReset d).ctr = 0 := rfl
@[simp] theorem afterReset_keyin (d : Nat) : (CoreState.afterReset d).keyin = Vector.replicate 4 0 := rfl
@[simp] theorem afterReset_ivin (d : Nat) : (CoreState.afterReset d).ivin = Vector.replicate 4 0 := rfl
@[simp] theorem afterReset_kbuf (d : Nat) : (CoreState.afterReset d).kbuf = clearedKbuf := rfl
@[simp] theorem afterReset_busy (d : Nat) : (CoreState.afterReset d).busy = false := rfl
@[simp] theorem afterReset_keyed (d : Nat) : (CoreState.afterReset d).keyed = false := rfl
@[simp] theorem afterReset_ready (d : Nat) : (CoreState.afterReset d).ready = false := rfl
@[simp] theorem afterReset_errcode (d : Nat) : (CoreState.afterReset d).errcode = 0 := rfl
@[simp] theorem afterReset_engine (d : Nat) : (CoreState.afterReset d).engine = .idle := rfl

end Sys2Proof.Machine
end

