-- ==== Sys2Proof/Laws/Ops.lean ====
section
/-! SUPPORT. What each shared operation over tables, buffer and counter can do, said once. -/

namespace Sys2Proof.Machine

/-! ### Tables -/

@[simp] theorem tableRead_tableOf (f : Index → Word) (j : Index) : tableRead (tableOf f) j = f j := by
  unfold tableRead tableOf
  exact Vector.getElem_ofFn j.isLt

@[simp] theorem tableRead_tableWrite_same (t : Table) (j : Index) (v : Word) : tableRead (tableWrite t j v) j = v := by
  simp [tableRead, tableWrite]

theorem tableRead_tableWrite_ne (t : Table) {j k : Index} (v : Word) (h : k ≠ j) :
    tableRead (tableWrite t j v) k = tableRead t k := by
  have : j.val ≠ k.val := fun e => h (Fin.ext e.symm)
  simp [tableRead, tableWrite, this]

/-- A write and then a read, whatever the two indices. -/
theorem tableRead_tableWrite (t : Table) (j k : Index) (v : Word) :
    tableRead (tableWrite t j v) k = if k = j then v else tableRead t k := by
  by_cases h : k = j
  · rw [if_pos h, h, tableRead_tableWrite_same]
  · rw [if_neg h, tableRead_tableWrite_ne t v h]

/-- A table is its words. -/
theorem table_ext {t u : Table} (h : ∀ j, tableRead t j = tableRead u j) : t = u :=
  Vector.ext fun i hi => h ⟨i, hi⟩

/-- A loop over consecutive indices carries what each pass carries. -/
theorem foldl_indices_induction {α : Type} (f : Index → α → α) (I : Nat → α → Prop)
    (hs : ∀ (j : Index) (x : α), I j.val x → I (j.val + 1) (f j x)) (l : List Index) :
    ∀ (n : Nat) (x : α), I n x → l.map Fin.val = List.range' n l.length →
      I (n + l.length) (l.foldl (fun acc j => f j acc) x) := by
  induction l with
  | nil => intro n x hx _; exact hx
  | cons j l ih =>
    intro n x hx hl
    rw [List.length_cons, List.range'_succ, List.map_cons, List.cons.injEq] at hl
    have := ih (n + 1) (f j x) (hl.1 ▸ hs j x (hl.1 ▸ hx)) hl.2
    rw [List.length_cons, List.foldl_cons, Nat.add_comm l.length, ← Nat.add_assoc]
    exact this

/-- `forTable` packaged as an induction: what holds before index 0 and is carried from each index to the next holds at the end. -/
theorem forTable_induction {α : Type} (f : Index → α → α) (I : Nat → α → Prop) (a : α) (h0 : I 0 a)
    (hs : ∀ (j : Index) (x : α), I j.val x → I (j.val + 1) (f j x)) : I 512 (forTable f a) := by
  have key : ∀ l : List Index, l.map Fin.val = List.range' 0 l.length → l.length = 512 →
      I 512 (l.foldl (fun acc j => f j acc) a) := by
    intro l hl hn
    have := foldl_indices_induction f I hs l 0 a h0 hl
    rwa [hn, Nat.zero_add] at this
  unfold forTable
  refine key _ ?_ List.length_finRange
  rw [List.length_finRange, List.map_coe_finRange_eq_range, List.range_eq_range']

/-! ### Indices -/

/-- R9, in integers. -/
theorem idxSub_val (j d : Index) : (idxSub j d).val = (j.val + 512 - d.val) % 512 := by
  have := d.isLt
  simp only [idxSub, Fin.sub_def]
  congr 1; omega

/-- A nonzero offset leads to another word (R62). -/
theorem idxSub_ne (j : Index) {d : Index} (h : d ≠ 0) : idxSub j d ≠ j := by
  simpa [idxSub] using h

theorem stepIndex_val (ctr : BitVec 10) : (stepIndex ctr).val = ctr.toNat % 512 := by
  simp [stepIndex]

theorem kbufIndex_val (ctr : BitVec 10) : (kbufIndex ctr).val = ctr.toNat % 16 := by
  simp [kbufIndex]

theorem nextCtr_toNat (ctr : BitVec 10) : (nextCtr ctr).toNat = (ctr.toNat + 1) % 1024 := by
  simp [nextCtr, BitVec.toNat_add]

theorem qPhase_eq (ctr : BitVec 10) : qPhase ctr = decide (512 ≤ ctr.toNat) := by
  revert ctr; unfold qPhase; decide +kernel

/-! ### The buffer -/

theorem emitWord_kbuf_same (c : CoreState) (s : Word) : (emitWord c s).kbuf[kbufIndex c.ctr] = s := by
  simp

theorem emitWord_kbuf_ne (c : CoreState) (s : Word) {k : Fin 16} (h : k ≠ kbufIndex c.ctr) :
    (emitWord c s).kbuf[k] = c.kbuf[k] := by
  have : (kbufIndex c.ctr).val ≠ k.val := fun e => h (Fin.ext e.symm)
  simp [this]

/-! ### One step, and several -/

/-- All a step of the stepper can do: by CTR[9] it is a P-step or a Q-step, then the counter advances (R140 to R143). -/
theorem keystreamStep_cases (c : CoreState) :
    (qPhase c.ctr = false ∧ keystreamStep c = advanceCtr (pStep c (stepIndex c.ctr))) ∨
    (qPhase c.ctr = true ∧ keystreamStep c = advanceCtr (qStep c (stepIndex c.ctr))) := by
  unfold keystreamStep
  cases qPhase c.ctr
  · exact .inl ⟨rfl, rfl⟩
  · exact .inr ⟨rfl, rfl⟩

@[simp] theorem keystreamStep_ctr (c : CoreState) : (keystreamStep c).ctr = nextCtr c.ctr := by
  rcases keystreamStep_cases c with ⟨-, h⟩ | ⟨-, h⟩ <;> simp [h, pStep, qStep]

@[simp] theorem keystreamStep_key (c : CoreState) : (keystreamStep c).key = c.key := by
  rcases keystreamStep_cases c with ⟨-, h⟩ | ⟨-, h⟩ <;> simp [h, pStep, qStep]

@[simp] theorem keystreamStep_iv (c : CoreState) : (keystreamStep c).iv = c.iv := by
  rcases keystreamStep_cases c with ⟨-, h⟩ | ⟨-, h⟩ <;> simp [h, pStep, qStep]

@[simp] theorem keystreamStep_keyin (c : CoreState) : (keystreamStep c).keyin = c.keyin := by
  rcases keystreamStep_cases c with ⟨-, h⟩ | ⟨-, h⟩ <;> simp [h, pStep, qStep]

@[simp] theorem keystreamStep_ivin (c : CoreState) : (keystreamStep c).ivin = c.ivin := by
  rcases keystreamStep_cases c with ⟨-, h⟩ | ⟨-, h⟩ <;> simp [h, pStep, qStep]

@[simp] theorem keystreamStep_busy (c : CoreState) : (keystreamStep c).busy = c.busy := by
  rcases keystreamStep_cases c with ⟨-, h⟩ | ⟨-, h⟩ <;> simp [h, pStep, qStep]

@[simp] theorem keystreamStep_keyed (c : CoreState) : (keystreamStep c).keyed = c.keyed := by
  rcases keystreamStep_cases c with ⟨-, h⟩ | ⟨-, h⟩ <;> simp [h, pStep, qStep]

@[simp] theorem keystreamStep_ready (c : CoreState) : (keystreamStep c).ready = c.ready := by
  rcases keystreamStep_cases c with ⟨-, h⟩ | ⟨-, h⟩ <;> simp [h, pStep, qStep]

@[simp] theorem keystreamStep_errcode (c : CoreState) : (keystreamStep c).errcode = c.errcode := by
  rcases keystreamStep_cases c with ⟨-, h⟩ | ⟨-, h⟩ <;> simp [h, pStep, qStep]

@[simp] theorem keystreamStep_engine (c : CoreState) : (keystreamStep c).engine = c.engine := by
  rcases keystreamStep_cases c with ⟨-, h⟩ | ⟨-, h⟩ <;> simp [h, pStep, qStep]

/-- A step writes P, Q, CTR and KBUF alone (R140 to R143). -/
theorem keystreamStep_frame (c : CoreState) :
    keystreamStep c = { c with
      P := (keystreamStep c).P, Q := (keystreamStep c).Q, ctr := nextCtr c.ctr, kbuf := (keystreamStep c).kbuf } := by
  rcases keystreamStep_cases c with ⟨-, h⟩ | ⟨-, h⟩ <;> rw [h] <;> rfl

/-- What a step does to P, Q, CTR and KBUF depends on those alone (R132). -/
theorem keystreamStep_agree {c d : CoreState} (hP : c.P = d.P) (hQ : c.Q = d.Q) (hc : c.ctr = d.ctr)
    (hk : c.kbuf = d.kbuf) :
    (keystreamStep c).P = (keystreamStep d).P ∧ (keystreamStep c).Q = (keystreamStep d).Q ∧
    (keystreamStep c).ctr = (keystreamStep d).ctr ∧ (keystreamStep c).kbuf = (keystreamStep d).kbuf := by
  unfold keystreamStep
  rw [hc]
  cases qPhase d.ctr <;> simp [pStep, qStep, hP, hQ, hc, hk]

theorem emit_succ (n : Nat) (c : CoreState) : emit (n + 1) c = keystreamStep (emit n c) := by
  induction n generalizing c with
  | zero => rfl
  | succ n ih => rw [emit, ih]; rfl

theorem emit_add (a b : Nat) (c : CoreState) : emit (a + b) c = emit b (emit a c) := by
  induction b with
  | zero => rfl
  | succ b ih => rw [← Nat.add_assoc, emit_succ, ih, emit_succ]

theorem emit_ctr (n : Nat) (c : CoreState) : (emit n c).ctr = c.ctr + BitVec.ofNat 10 n := by
  induction n with
  | zero => simp [emit]
  | succ n ih => rw [emit_succ, keystreamStep_ctr, ih, nextCtr, BitVec.add_assoc, BitVec.ofNat_add]; rfl

/-- n steps write P, Q, CTR and KBUF alone. -/
theorem emit_frame (n : Nat) (c : CoreState) :
    emit n c = { c with P := (emit n c).P, Q := (emit n c).Q, ctr := (emit n c).ctr, kbuf := (emit n c).kbuf } := by
  induction n with
  | zero => rfl
  | succ n ih => rw [emit_succ, keystreamStep_frame, ih]

/-- What n steps do to P, Q, CTR and KBUF depends on those alone (R132). -/
theorem emit_agree (n : Nat) {c d : CoreState} (hP : c.P = d.P) (hQ : c.Q = d.Q) (hc : c.ctr = d.ctr) (hk : c.kbuf = d.kbuf) :
    (emit n c).P = (emit n d).P ∧ (emit n c).Q = (emit n d).Q ∧ (emit n c).ctr = (emit n d).ctr ∧
    (emit n c).kbuf = (emit n d).kbuf := by
  induction n with
  | zero => exact ⟨hP, hQ, hc, hk⟩
  | succ n ih =>
    rw [emit_succ, emit_succ]
    exact keystreamStep_agree ih.1 ih.2.1 ih.2.2.1 ih.2.2.2

/-! ### The initializer -/

/-- The initializer writes P, Q and CTR alone (R120 to R127), and what it writes depends on the key and IV alone (R130). -/
theorem initializeTables_eq (kw vw : Quad) (c d : CoreState) :
    initializeTables kw vw c = { c with
      P := (initializeTables kw vw d).P, Q := (initializeTables kw vw d).Q, ctr := 0 } := rfl

end Sys2Proof.Machine
end

