-- ==== Sys2Proof/Laws/Commands.lean ====
section
/-! SUPPORT. What a CMD write, a running command's completion, a host's turn and a step can do, each said once. -/

namespace Sys2Proof.Machine

/-! ### Completion -/

theorem completeInit_eq (c : CoreState) :
    completeInit c = { c with
      P := (initializeTables c.key c.iv c).P, Q := (initializeTables c.key c.iv c).Q, ctr := 0, ready := true,
      busy := false, engine := .idle } := rfl

theorem completeResync_eq (c : CoreState) :
    completeResync c = { c with
      P := (initializeTables c.key c.iv c).P, Q := (initializeTables c.key c.iv c).Q, ctr := 0, ready := true,
      busy := false, engine := .idle } := rfl

theorem completeGen_eq (n : BitVec 5) (c : CoreState) :
    completeGen n c = { c with
      P := (emit n.toNat c).P, Q := (emit n.toNat c).Q, ctr := c.ctr + BitVec.ofNat 10 n.toNat,
      kbuf := (emit n.toNat c).kbuf, busy := false, engine := .idle } := by
  rw [completeGen, genCount, emit_frame, ← emit_ctr]; rfl

/-- All a running command's completion can do (R128, R129, R144). -/
theorem completeCommand_cases (c : CoreState) :
    (c.engine = .idle ∧ completeCommand c = c) ∨
    ((c.engine = .runInit ∨ c.engine = .runResync) ∧ completeCommand c = { c with
      P := (initializeTables c.key c.iv c).P, Q := (initializeTables c.key c.iv c).Q, ctr := 0, ready := true,
      busy := false, engine := .idle }) ∨
    (∃ n, c.engine = .runGen n ∧ completeCommand c = { c with
      P := (emit n.toNat c).P, Q := (emit n.toNat c).Q, ctr := c.ctr + BitVec.ofNat 10 n.toNat,
      kbuf := (emit n.toNat c).kbuf, busy := false, engine := .idle }) := by
  unfold completeCommand
  split <;> rename_i h
  · exact .inl ⟨h, rfl⟩
  · exact .inr (.inl ⟨.inl h, rfl⟩)
  · exact .inr (.inl ⟨.inr h, rfl⟩)
  · exact .inr (.inr ⟨_, h, completeGen_eq _ c⟩)

@[simp] theorem completeCommand_idle {c : CoreState} (h : c.engine = .idle) : completeCommand c = c := by
  simp [completeCommand, h]

@[simp] theorem completeCommand_key (c : CoreState) : (completeCommand c).key = c.key := by
  rcases completeCommand_cases c with ⟨-, h⟩ | ⟨-, h⟩ | ⟨n, -, h⟩ <;> rw [h]

@[simp] theorem completeCommand_iv (c : CoreState) : (completeCommand c).iv = c.iv := by
  rcases completeCommand_cases c with ⟨-, h⟩ | ⟨-, h⟩ | ⟨n, -, h⟩ <;> rw [h]

@[simp] theorem completeCommand_keyin (c : CoreState) : (completeCommand c).keyin = c.keyin := by
  rcases completeCommand_cases c with ⟨-, h⟩ | ⟨-, h⟩ | ⟨n, -, h⟩ <;> rw [h]

@[simp] theorem completeCommand_ivin (c : CoreState) : (completeCommand c).ivin = c.ivin := by
  rcases completeCommand_cases c with ⟨-, h⟩ | ⟨-, h⟩ | ⟨n, -, h⟩ <;> rw [h]

@[simp] theorem completeCommand_keyed (c : CoreState) : (completeCommand c).keyed = c.keyed := by
  rcases completeCommand_cases c with ⟨-, h⟩ | ⟨-, h⟩ | ⟨n, -, h⟩ <;> rw [h]

@[simp] theorem completeCommand_engine (c : CoreState) : (completeCommand c).engine = .idle := by
  rcases completeCommand_cases c with ⟨e, h⟩ | ⟨-, h⟩ | ⟨n, -, h⟩ <;> rw [h]
  exact e

/-! ### CMD writes -/

/-- Every command written while BUSY = 1 is rejected with BUSY (R164). -/
theorem exec_busy (i : Instr) {s : State} (h : s.core.busy = true) : exec i s = .next (raiseCmdError errBusy s) := by
  cases i <;> simp [exec, execNop, execInit, execResync, execGen, h]

/-- All the meaning of a command can do: reject with a code from 1 to 4 and do nothing else, or accept with the effects of its own
rule (R128, R129, R144, R145, R165). -/
theorem exec_cases (i : Instr) (s : State) :
    (∃ code : BitVec 3, code ≠ 0 ∧ code.toNat ≤ 4 ∧ exec i s = .next (raiseCmdError code s)) ∨
    (s.core.busy = false ∧ (i = .nop ∨ (∃ n, i = .gen n ∧ n.toNat = 0 ∧ s.core.ready = true)) ∧
      exec i s = .next (raiseCmdError 0 s)) ∨
    (s.core.busy = false ∧ i = .init ∧
      exec i s = .next (setTurns (Config.latInit s.draws) { s with core := acceptInit s.core })) ∨
    (s.core.busy = false ∧ s.core.keyed = true ∧ i = .resync ∧
      exec i s = .next (setTurns (Config.latResync s.draws) { s with core := acceptResync s.core })) ∨
    (∃ n : BitVec 5, s.core.busy = false ∧ s.core.ready = true ∧ i = .gen n ∧ 1 ≤ n.toNat ∧ n.toNat ≤ 16 ∧
      exec i s = .next (setTurns (Config.latGen n.toNat s.draws)
        { s with core := startEngine (.runGen n) s.core })) := by
  cases hb : s.core.busy
  case true =>
    exact .inl ⟨errBusy, by decide, by decide, exec_busy i hb⟩
  case false =>
    cases i with
    | nop => exact .inr (.inl ⟨rfl, .inl rfl, by simp [exec, execNop, hb, raiseCmdError, errOk]⟩)
    | init => exact .inr (.inr (.inl ⟨rfl, rfl, by simp [exec, execInit, hb]⟩))
    | resync =>
      cases hk : s.core.keyed
      · exact .inl ⟨errNoKey, by decide, by decide, by simp [exec, execResync, hb, hk]⟩
      · exact .inr (.inr (.inr (.inl ⟨rfl, rfl, rfl, by simp [exec, execResync, hb, hk]⟩)))
    | gen n =>
      by_cases hn : 16 < n.toNat
      · exact .inl ⟨errIllegal, by decide, by decide, by simp [exec, execGen, genCount, hb, hn]⟩
      · cases hr : s.core.ready
        · exact .inl ⟨errNotReady, by decide, by decide, by simp [exec, execGen, genCount, hb, hn, hr]⟩
        · by_cases h0 : n.toNat = 0
          · exact .inr (.inl ⟨rfl, .inr ⟨n, rfl, h0, rfl⟩, by
              simp [exec, execGen, genCount, hb, hr, h0, acceptGen, raiseCmdError, errOk]⟩)
          · exact .inr (.inr (.inr (.inr ⟨n, rfl, rfl, rfl, by omega, by omega, by
              unfold exec execGen; simp only [genCount, hb, hr, acceptGen]; rw [if_neg (by simp), if_neg hn]; simp [h0]⟩)))

/-- All a CMD write can do: a rejection, or the meaning of a command the word decodes to (R36, R161, R164). -/
theorem cmdWrite_cases (w : Word) (s : State) :
    (∃ e, decode w = .error e ∧ cmdWrite w s = .next (raiseCmdError (if s.core.busy then errBusy else errIllegal) s)) ∨
    (∃ i, decode w = .ok i ∧ cmdWrite w s = exec i s) := by
  unfold cmdWrite
  cases decode w with
  | error e => exact .inl ⟨e, rfl, rfl⟩
  | ok i => exact .inr ⟨i, rfl, rfl⟩

/-! ### The host's turn -/

/-- A read changes the number of draws at most (R68). -/
theorem readReg_state (r : Reg) (s : State) : ∃ d, (readReg r s).2 = { s with draws := d } := by
  cases r <;> simp only [readReg, readStatus, readKbuf]
  case status => split <;> exact ⟨_, rfl⟩
  case kbuf k => split <;> exact ⟨_, rfl⟩
  all_goals exact ⟨s.draws, rfl⟩

@[simp] theorem readReg_core (r : Reg) (s : State) : (readReg r s).2.core = s.core := by
  obtain ⟨d, h⟩ := readReg_state r s; rw [h]

@[simp] theorem readReg_base (r : Reg) (s : State) : (readReg r s).2.base = s.base := by
  obtain ⟨d, h⟩ := readReg_state r s; rw [h]

@[simp] theorem readReg_inputs (r : Reg) (s : State) : (readReg r s).2.inputs = s.inputs := by
  obtain ⟨d, h⟩ := readReg_state r s; rw [h]

@[simp] theorem readReg_turns (r : Reg) (s : State) : (readReg r s).2.turns = s.turns := by
  obtain ⟨d, h⟩ := readReg_state r s; rw [h]

@[simp] theorem readReg_programError (r : Reg) (s : State) : (readReg r s).2.programError = s.programError := by
  obtain ⟨d, h⟩ := readReg_state r s; rw [h]

/-- What a read gives depends on CORE and on the number of the next draw alone. -/
theorem readReg_agree (r : Reg) {s t : State} (hc : s.core = t.core) (hd : s.draws = t.draws) :
    (readReg r s).1 = (readReg r t).1 ∧ (readReg r s).2.draws = (readReg r t).2.draws := by
  cases r <;> simp only [readReg, readStatus, readKbuf, drawnWord, hc, hd]
  case status => split <;> exact ⟨rfl, by simp [hd]⟩
  case kbuf => split <;> exact ⟨rfl, by simp [hd]⟩
  all_goals exact ⟨trivial, trivial⟩

/-- A host read that reaches a register records what that register reads (R10, R35). -/
theorem memRead_of_busReg {s : State} {addr width : Nat} {r : Reg} (h : busReg s.base addr width = some r)
    (name : Option String) : memRead addr width name s = .next (recordRead name (readReg r s).1 (readReg r s).2) := by
  simp only [memRead, h]

/-- A host write that reaches a register is that register's write (R10, R35). -/
theorem memWrite_of_busReg {s : State} {addr width : Nat} {r : Reg} (h : busReg s.base addr width = some r) (v : Word) :
    memWrite addr width v s = writeReg r v s := by
  simp only [memWrite, h]

theorem readStatus_eq (s : State) : readStatus s = readReg .status s := rfl

/-- The bits of a STATUS word (R37). -/
theorem statusWord_getLsbD (c : CoreState) (x : BitVec 10) (i : Nat) :
    (statusWord c x).getLsbD i =
      if i < 1 then c.busy else if i < 2 then c.keyed else if i < 3 then c.ready else if i < 4 then errFlag c
      else if i < 7 then c.errcode.getLsbD (i - 4) else if i < 16 then false else x.getLsbD (i - 16) := by
  unfold statusWord
  repeat rw [BitVec.getLsbD_append]
  simp only [BitVec.getLsbD_ofBool, BitVec.getLsbD_zero, Nat.sub_sub, Nat.reduceAdd]
  split_ifs <;> first | omega | rfl | simp_all

/-- Bit 0 of a STATUS word is BUSY (R37). -/
@[simp] theorem statusBusy_statusWord (c : CoreState) (x : BitVec 10) : statusBusy (statusWord c x) = c.busy := by
  rw [statusBusy, statusWord_getLsbD, if_pos (by decide)]

/-- Bits 6:4 of a STATUS word are ERRCODE (R37). -/
@[simp] theorem statusErrcode_statusWord (c : CoreState) (x : BitVec 10) : statusErrcode (statusWord c x) = c.errcode := by
  apply BitVec.eq_of_getLsbD_eq
  intro i hi
  rw [statusErrcode, BitVec.getLsbD_extractLsb', statusWord_getLsbD]
  obtain h | h | h : i = 0 ∨ i = 1 ∨ i = 2 := by omega
  all_goals subst h; simp

theorem readStatus_value (s : State) : ∃ x, (readStatus s).1 = statusWord s.core x := by
  unfold readStatus; split <;> exact ⟨_, rfl⟩

/-- WAIT's test reads BUSY true, busy or not (R184). -/
@[simp] theorem readStatus_busy (s : State) : statusBusy (readStatus s).1 = s.core.busy := by
  obtain ⟨x, h⟩ := readStatus_value s; rw [h, statusBusy_statusWord]

/-- CHECK's test reads ERRCODE true, busy or not (R184). -/
@[simp] theorem readStatus_errcode (s : State) : statusErrcode (readStatus s).1 = s.core.errcode := by
  obtain ⟨x, h⟩ := readStatus_value s; rw [h, statusErrcode_statusWord]

@[simp] theorem waitPoll_core (rest : List Input) (s : State) : (waitPoll rest s).core = s.core := by
  simp only [waitPoll, recordRead_core, readStatus_eq, readReg_core]

@[simp] theorem waitPoll_base (rest : List Input) (s : State) : (waitPoll rest s).base = s.base := by
  simp only [waitPoll, recordRead_base, readStatus_eq, readReg_base]

@[simp] theorem waitPoll_turns (rest : List Input) (s : State) : (waitPoll rest s).turns = s.turns := by
  simp only [waitPoll, recordRead_turns, readStatus_eq, readReg_turns]

@[simp] theorem waitPoll_programError (rest : List Input) (s : State) : (waitPoll rest s).programError = s.programError := by
  simp only [waitPoll, recordRead_programError, readStatus_eq, readReg_programError]

/-- WAIT stays next while BUSY is 1 and is done when it is 0 (R88). -/
@[simp] theorem waitPoll_inputs (rest : List Input) (s : State) :
    (waitPoll rest s).inputs = if s.core.busy then .wait :: rest else rest := by
  simp only [waitPoll, recordRead_inputs, readStatus_busy]

@[simp] theorem checkStatus_core (s : State) : (checkStatus s).core = s.core := by
  simp [checkStatus, readStatus_eq]

@[simp] theorem checkStatus_base (s : State) : (checkStatus s).base = s.base := by
  simp [checkStatus, readStatus_eq]

@[simp] theorem checkStatus_inputs (s : State) : (checkStatus s).inputs = s.inputs := by
  simp [checkStatus, readStatus_eq]

/-- CHECK finds an error exactly when ERRCODE is not 0 (R88). -/
@[simp] theorem checkStatus_programError (s : State) :
    (checkStatus s).programError = (s.programError || s.core.errcode != 0) := by
  simp only [checkStatus, recordRead_programError, readStatus_errcode]
  rw [readStatus_eq, readReg_programError]

/-- All a host's turn can do to CORE: nothing; one CMD write's effect; one staging write; a reset; or a bus error, which is an
unsupported access (R67, R68, R180). -/
theorem hostTurn_cases (s : State) :
    (∃ t, hostTurn s = .next t ∧ t.core = s.core ∧ t.base = s.base) ∨
    (∃ w rest, s.inputs = .memWrite s.base 4 w :: rest ∧ hostTurn s = cmdWrite w { s with inputs := rest }) ∨
    (∃ i v addr rest, s.inputs = .memWrite addr 4 v :: rest ∧ hostTurn s = .next (writeKeyin i v { s with inputs := rest })) ∨
    (∃ i v addr rest, s.inputs = .memWrite addr 4 v :: rest ∧ hostTurn s = .next (writeIvin i v { s with inputs := rest })) ∨
    (∃ rest, s.inputs = .assertReset :: rest ∧ hostTurn s = .next (applyReset { s with inputs := rest })) ∨
    (hostTurn s = .fault .busError ∧ ∃ i rest, s.inputs = i :: rest ∧ inputSupported s.base i = false) := by
  unfold hostTurn
  split <;> rename_i hi
  · exact .inl ⟨s, rfl, rfl, rfl⟩
  · rename_i addr width name rest
    cases hs : supported s.base addr width
    · exact .inr (.inr (.inr (.inr (.inr ⟨by simp [memRead, busReg, hs], _, _, hi, hs⟩))))
    · exact .inl ⟨_, by simp only [memRead, busReg, hs]; rfl, by simp, by simp⟩
  · rename_i addr width v rest
    cases hs : supported s.base addr width
    · exact .inr (.inr (.inr (.inr (.inr ⟨by simp [memWrite, busReg, hs], _, _, hi, hs⟩))))
    · have hw : memWrite addr width v { s with inputs := rest } = writeReg (regAt (addr - s.base)) v { s with inputs := rest } := by
        simp only [memWrite, busReg, hs]; rfl
      obtain ⟨rfl, hle, -, -⟩ : width = 4 ∧ s.base ≤ addr ∧ (addr - s.base) % 4 = 0 ∧ addr - s.base ≤ 0x7C := by
        simpa [supported] using hs
      rw [hw]
      generalize hr : regAt (addr - s.base) = r
      cases r
      case cmd =>
        have h0 : addr - s.base = 0 := by
          unfold regAt at hr
          split at hr
          · assumption
          · split at hr
            · exact absurd hr (by simp)
            · split at hr
              · exact absurd hr (by simp)
              · split at hr
                · exact absurd hr (by simp)
                · split at hr
                  · exact absurd hr (by simp)
                  · split at hr <;> exact absurd hr (by simp)
        obtain rfl : addr = s.base := by omega
        exact .inr (.inl ⟨v, rest, hi, rfl⟩)
      case keyin i => exact .inr (.inr (.inl ⟨i, v, addr, rest, hi, rfl⟩))
      case ivin i => exact .inr (.inr (.inr (.inl ⟨i, v, addr, rest, hi, rfl⟩)))
      all_goals exact .inl ⟨_, rfl, rfl, rfl⟩
  · exact .inl ⟨_, rfl, by simp, by simp⟩
  · exact .inl ⟨_, rfl, by simp, by simp⟩
  · exact .inr (.inr (.inr (.inr (.inl ⟨_, hi, rfl⟩))))

/-! ### The step -/

/-- All a step can do: the engine's turn, or the host's with a host turn used up while a command runs (R3). -/
theorem step_cases (s : State) :
    (s.core.engine ≠ .idle ∧ s.turns = 0 ∧ step s = .next (engineTurn s)) ∨
    (s.core.engine = .idle ∧ step s = hostTurn s) ∨
    (s.core.engine ≠ .idle ∧ 0 < s.turns ∧ step s = hostTurn { s with turns := s.turns - 1 }) := by
  unfold step
  by_cases he : s.core.engine = .idle
  · exact .inr (.inl ⟨he, by simp [he]⟩)
  · by_cases ht : s.turns = 0
    · exact .inl ⟨he, ht, by simp [he, ht]⟩
    · exact .inr (.inr ⟨he, by omega, by simp [he, ht]⟩)

/-- When the host has the turn, a step is its turn, one host turn used up while a command runs. -/
theorem step_hostHasTurn {s : State} (h : hostHasTurn s) : step s = hostTurn { s with turns := turnsAfter 1 s } := by
  rcases step_cases s with ⟨he, ht, -⟩ | ⟨he, h'⟩ | ⟨he, -, h'⟩
  · rcases h with h | h
    · exact absurd h he
    · omega
  · simpa [turnsAfter, he] using h'
  · simpa [turnsAfter, he] using h'

theorem run_next_of (M : Host.Core) (k : Nat) (s t : M.State) (h : M.step s = .next t) : M.run (k + 1) s = M.run k t := by
  rw [Host.Core.run, h]

theorem run_fault_of (M : Host.Core) (k : Nat) (s : M.State) (r : M.Fault) (h : M.step s = .fault r) :
    M.run (k + 1) s = .fault r := by
  rw [Host.Core.run, h]

theorem run_refused_of (M : Host.Core) (k : Nat) (s : M.State) (r : M.Refusal) (h : M.step s = .refused r) :
    M.run (k + 1) s = .refused r := by
  rw [Host.Core.run, h]

/-- Runs of the machine are the host's runs of its interface. -/
theorem runSteps_eq_run (k : Nat) (s : State) : runSteps k s = Host.Core.run Sys2Proof.core k s := by
  induction k generalizing s with
  | zero => rfl
  | succ k ih =>
    unfold runSteps
    cases h : step s with
    | next t => exact (ih t).trans (run_next_of Sys2Proof.core k s t h).symm
    | fault r => exact (run_fault_of Sys2Proof.core k s r h).symm
    | refused r => exact (run_refused_of Sys2Proof.core k s r h).symm

@[simp] theorem runSteps_zero (s : State) : runSteps 0 s = .next s := rfl

/-- One more step of a run that goes on. -/
theorem runSteps_succ (k : Nat) {s t : State} (h : step s = .next t) : runSteps (k + 1) s = runSteps k t := by
  rw [runSteps, h]

/-- Runs compose. -/
theorem runSteps_add (a b : Nat) {s t : State} (h : runSteps a s = .next t) : runSteps (a + b) s = runSteps b t := by
  induction a generalizing s with
  | zero => cases h; rw [Nat.zero_add]
  | succ a ih =>
    rw [runSteps] at h
    rw [Nat.succ_add, runSteps]
    cases ho : step s with
    | next u => rw [ho] at h; exact ih h
    | fault r => rw [ho] at h; cases h
    | refused r => rw [ho] at h; cases h

end Sys2Proof.Machine
end

