-- ==== Sys2Proof/Laws/Decode.lean ====
section
/-! SUPPORT. The fields of a command word and of an encoded command, as numbers. -/

namespace Sys2Proof

theorem opField_toNat (w : Word) : (opField w).toNat = w.toNat % 16 := by
  simp [opField]

theorem nField_toNat (w : Word) : (nField w).toNat = w.toNat / 16 % 32 := by
  simp [nField, Nat.shiftRight_eq_div_pow]

theorem rsvField_toNat (w : Word) : (rsvField w).toNat = w.toNat / 512 := by
  have := w.isLt
  simp [rsvField, Nat.shiftRight_eq_div_pow]
  omega

theorem encode_gen_toNat (n : BitVec 5) : (encode (.gen n)).toNat = 3 + 16 * n.toNat := by
  revert n; decide

/-- The opcode of each encoded command, its N field and its zero RSV field (R80, R81). -/
@[simp] theorem rsvField_encode (i : Instr) : rsvField (encode i) = 0#23 := by
  cases i with
  | gen n => revert n; decide
  | _ => decide

@[simp] theorem opField_encode_gen (n : BitVec 5) : opField (encode (.gen n)) = 3#4 := by
  revert n; decide

@[simp] theorem nField_encode_gen (n : BitVec 5) : nField (encode (.gen n)) = n := by
  revert n; decide

end Sys2Proof
end

