-- ==== Sys2Proof/Laws/PerInstr.lean ====
section
/-! SUPPORT. Families of statements about each command as syntax, one lemma per constructor of `Instr`. -/

namespace Sys2Proof.Laws.CommandWordFields

/-- The fields of a command's word: RSV is 0, OP is one of the four operation codes, and N is 0 unless OP is GEN's (R80, R82,
R84). -/
def Statement (i : Instr) : Prop :=
  rsvField (encode i) = 0#23 ∧ (opField (encode i)).toNat ≤ 3 ∧ (opField (encode i) ≠ 3#4 → nField (encode i) = 0#5)

theorem nop : Statement .nop := by unfold Statement; decide

theorem init : Statement .init := by unfold Statement; decide

theorem resync : Statement .resync := by unfold Statement; decide

theorem gen (n : BitVec 5) : Statement (.gen n) := by revert n; unfold Statement; decide

end Sys2Proof.Laws.CommandWordFields
end

