-- ==== Sys2Proof/Tests/Slice0.lean ====
section
/-! SUPPORT. Tests on fixed values, their results taken from 95_test_vectors.md or from the rule named, and for each obligation
with hypotheses a concrete state and operands that meet them (`test_meets_…`). -/

namespace Sys2Proof.Tests

open Sys2Proof.Machine

set_option maxRecDepth 20000

/-! ### States to test on -/

/-- CORE as after reset, but for its flags and engine state. -/
def coreAt (busy keyed ready : Bool) (e : Engine) : CoreState :=
  { CoreState.afterReset 0 with busy := busy, keyed := keyed, ready := ready, engine := e }

/-- A machine with that CORE, host turns left and a host program. -/
def machineAt (c : CoreState) (turns : Nat) (inputs : List Input) : State :=
  { State.reset with core := c, turns := turns, inputs := inputs }

/-- CORE ready and idle. -/
def readyState (inputs : List Input) : State := machineAt (coreAt false true true .idle) 0 inputs

/-- CORE running an INIT. -/
def runningInit (turns : Nat) (inputs : List Input) : State := machineAt (coreAt true true false .runInit) turns inputs

/-- CORE running a GEN 16. -/
def runningGen (turns : Nat) (inputs : List Input) : State := machineAt (coreAt true true true (.runGen 16)) turns inputs

/-- CORE with the step counter at `ctr`. -/
def coreAtCtr (ctr : BitVec 10) : CoreState := { coreAt false true true .idle with ctr := ctr }

/-- The STATUS an outcome leaves, none after a fault or a refusal. -/
def statusAfter : Host.Outcome State Fault Refusal → Option Word
  | .next t => some (readReg .status t).1
  | .fault _ => none
  | .refused _ => none

/-- The ERRCODE an outcome leaves, none after a fault or a refusal. -/
def errcodeAfter : Host.Outcome State Fault Refusal → Option (BitVec 3)
  | .next t => some t.core.errcode
  | .fault _ => none
  | .refused _ => none

/-! ### WellFormed refuses ill-formed commands (R83) -/

theorem test_wellFormed_refuses_gen17 : (Instr.gen 17).wellFormed = false := by decide

theorem test_wellFormed_refuses_gen31 : (Instr.gen 31).wellFormed = false := by decide

theorem test_wellFormed_takes_gen16 : (Instr.gen 16).wellFormed = true := by decide

/-! ### Words written out from the encodings of R80 to R84, from the top RSV (23 bits), N (5), OP (4); V-CMD's rows -/

theorem test_decode_nop : decode 0b0000000_00000000_00000000_00000_0000#32 = .ok .nop := by decide

theorem test_decode_init : decode 0b0000000_00000000_00000000_00000_0001#32 = .ok .init := by decide

theorem test_decode_resync : decode 0b0000000_00000000_00000000_00000_0010#32 = .ok .resync := by decide

theorem test_decode_gen0 : decode 0b0000000_00000000_00000000_00000_0011#32 = .ok (.gen 0) := by decide

theorem test_decode_gen15 : decode 0b0000000_00000000_00000000_01111_0011#32 = .ok (.gen 15) := by decide

theorem test_decode_gen16 : decode 0b0000000_00000000_00000000_10000_0011#32 = .ok (.gen 16) := by decide

theorem test_decode_illegal_counts :
    decode 0x00000113#32 = .error .countAbove16 ∧ decode 0x000001F3#32 = .error .countAbove16 := by decide

theorem test_decode_illegal_operations :
    decode 0x00000004#32 = .error .reservedOperation ∧ decode 0x0000000F#32 = .error .reservedOperation := by decide

theorem test_decode_illegal_operands :
    decode 0x00000010#32 = .error .countWithoutOperand ∧ decode 0x00000011#32 = .error .countWithoutOperand ∧
    decode 0x00000012#32 = .error .countWithoutOperand := by decide

theorem test_decode_illegal_reserved :
    decode 0x00000200#32 = .error .reservedBits ∧ decode 0x80000003#32 = .error .reservedBits := by decide

theorem test_encode : encode .nop = 0#32 ∧ encode .init = 1#32 ∧ encode .resync = 2#32 ∧ encode (.gen 16) = 0x103#32 := by decide

theorem test_decodeTableWord : decodeTableWord 32 0x103 = some (.gen 16) ∧ decodeTableWord 32 0x113 = none := by decide

/-! ### Helper functions: V-F, V-G, V-IDX, V-KEYPACK, V-BYTE -/

theorem test_f1_f2 :
    f1 0x12345678#32 = 0xE7FCE6EE#32 ∧ f2 0x12345678#32 = 0xA1F78649#32 ∧ f1 0xDEADBEEF#32 = 0xABD31B0B#32 ∧
    f2 0xDEADBEEF#32 = 0x689DBFEC#32 := by decide

theorem test_g1_g2 :
    g1 0x12345678#32 0x9ABCDEF0#32 0x0FEDCBA9#32 = 0x362E9BE8#32 ∧ g2 0x12345678#32 0x9ABCDEF0#32 0x0FEDCBA9#32 = 0xC2BD0747#32 ∧
    g1 0#32 1#32 0#32 = 0x01000000#32 ∧ g2 0#32 0#32 1#32 = 0x00800000#32 := by decide

theorem test_idxSub :
    idxSub 0 3 = 509 ∧ idxSub 0 10 = 502 ∧ idxSub 0 511 = 1 ∧ idxSub 0 12 = 500 ∧ idxSub 511 511 = 0 ∧ idxSub 12 12 = 0 := by
  decide

theorem test_le32 : le32 0x00#8 0x01#8 0x02#8 0x03#8 = 0x03020100#32 := by decide

theorem test_keystreamBytes : keystreamBytes 0x73150082#32 = [0x82#8, 0x00#8, 0x15#8, 0x73#8] := by decide

/-! ### Initialization with zero key and zero IV: V-W, V-INIT -/

/-- V-W: the last word of the expansion. -/
theorem test_expansion_last : (expansion (Vector.replicate 4 0) (Vector.replicate 4 0)).getD 1279 0 = 0x1289F4E4#32 := by
  decide +kernel

/-- V-INIT: P[0] after an INIT accepted right after reset. -/
theorem test_init_P0 : tableRead (completeCommand (acceptInit State.reset.core)).P 0 = 0xB991E2DA#32 := by decide +kernel

/-! ### Single steps: V-STEP0, V-STEP512, on tables that hold the words named there -/

/-- Table P with the words V-STEP0 names. -/
def tableStep0P : Table := tableOf fun j =>
  if j = 0 then 0xB991E2DA#32 else if j = 509 then 0x4BCD24D6#32 else if j = 502 then 0xCA1DC80A#32
  else if j = 1 then 0x6F8933E2#32 else if j = 500 then 0xA69A51CF#32 else 0#32

/-- Table Q with the words V-STEP0 names. -/
def tableStep0Q : Table := tableOf fun j => if j = 0xCF then 0x9C573A87#32 else if j = 0x19A then 0x02ECFE33#32 else 0#32

theorem test_step0 :
    pUpdate tableStep0P 0 = 0xEC513838#32 ∧ pOutput (tableWrite tableStep0P 0 0xEC513838#32) tableStep0Q 0 = 0x73150082#32 := by
  simp only [pUpdate, pOutput, tableStep0P, tableStep0Q, h1, tableRead_tableOf, tableRead_tableWrite]
  decide

/-- Table Q with the words V-STEP512 names. -/
def tableStep512Q : Table := tableOf fun j =>
  if j = 0 then 0x4C65FC98#32 else if j = 509 then 0x6FEE9221#32 else if j = 502 then 0x82D67C26#32
  else if j = 1 then 0xCC962B76#32 else if j = 500 then 0x7B06EC4D#32 else 0#32

/-- Table P with the words V-STEP512 names. -/
def tableStep512P : Table := tableOf fun j => if j = 0x4D then 0x9C849B94#32 else if j = 0x106 then 0x00A93F7A#32 else 0#32

theorem test_step512 :
    qUpdate tableStep512Q 0 = 0x2410F1C4#32 ∧
    qOutput tableStep512P (tableWrite tableStep512Q 0 0x2410F1C4#32) 0 = 0xB93D2ACA#32 := by
  simp only [qUpdate, qOutput, tableStep512P, tableStep512Q, h2, tableRead_tableOf, tableRead_tableWrite]
  decide

/-! ### Results of one CMD write: V-ERR -/

theorem test_errors_after_reset :
    statusAfter (cmdWrite 0x00000002#32 State.reset) = some 0x28#32 ∧ statusAfter (cmdWrite 0x00000013#32 State.reset) = some 0x38#32 ∧
    statusAfter (cmdWrite 0x00000003#32 State.reset) = some 0x38#32 ∧ statusAfter (cmdWrite 0x00000004#32 State.reset) = some 0x18#32 ∧
    statusAfter (cmdWrite 0x00000113#32 State.reset) = some 0x18#32 ∧ statusAfter (cmdWrite 0x00000012#32 State.reset) = some 0x18#32 ∧
    statusAfter (cmdWrite 0x00000000#32 State.reset) = some 0x00#32 := by decide +kernel

theorem test_error_while_busy : errcodeAfter (cmdWrite 0x00000004#32 (runningInit 0 [])) = some 4#3 := by decide +kernel

theorem test_nop_clears_errcode :
    statusAfter (cmdWrite 0x00000000#32 { readyState [] with core := { (readyState []).core with errcode := 1 } }) = some 0x06#32 := by
  decide +kernel

/-! ### What a turn of the host records -/

/-- The last value read and the error flag an outcome leaves, none after a fault or a refusal. -/
def hostAfter : Host.Outcome State Fault Refusal → Option (Word × List (String × Word) × Bool)
  | .next t => some (t.readData, t.named, t.programError)
  | .fault _ => none
  | .refused _ => none

/-- R87: a named read of STATUS, whose value R182 gives for a ready CORE. -/
theorem test_read_records : hostAfter (step (readyState [.memRead 4 4 (some "st")])) = some (6#32, [("st", 6#32)], false) := by
  decide +kernel

/-- R88: CHECK after a RESYNC without a key, whose STATUS V-ERR gives. -/
theorem test_check_flags_error :
    hostAfter (step (machineAt { State.reset.core with errcode := 2 } 0 [.check])) = some (0x28#32, [], true) := by
  decide +kernel

/-! ### A program's text (R87, R88) -/

theorem test_assembleText :
    assembleText 0x1000 "INIT ; start\n\nWAIT\nGEN 16\nRD KBUF0 -> k0\nWR IVIN1, 0x00000001" =
      some [.memWrite 0x1000 4 1#32, .wait, .memWrite 0x1000 4 0x103#32, .memRead 0x1040 4 (some "k0"),
        .memWrite 0x1024 4 1#32] := by decide +kernel

theorem test_assembleText_refuses : assembleText 0 "GEN 17" = none ∧ assembleText 0 "JUMP 3" = none := by decide +kernel

/-! ### The host's question: a placed command is the first step after reset -/

theorem test_withFetchWord : step (State.reset.withFetchWord 32 0x00000001) = exec .init State.reset := by rfl

/-! ### States and operands that meet the hypotheses of the obligations, clause by clause at the ends of each range -/

theorem test_meets_DecodeInvertsEncode :
    (Instr.gen 0).wellFormed = true ∧ encode (.gen 0) = 0x3#32 ∧ (Instr.gen 16).wellFormed = true ∧ encode (.gen 16) = 0x103#32 ∧
    Instr.resync.wellFormed = true ∧ encode .resync = 0x2#32 := by decide

theorem test_meets_IllegalWordsAreRejected :
    State.reset.core.busy = false ∧ illegalWord 0x200#32 ∧ illegalWord 0xFFFFFFFF#32 ∧ illegalWord 0x4#32 ∧ illegalWord 0xF#32 ∧
    illegalWord 0x113#32 ∧ illegalWord 0x1F3#32 ∧ illegalWord 0x10#32 ∧ illegalWord 0x1F2#32 := by
  refine ⟨rfl, ?_⟩; unfold illegalWord; decide

theorem test_meets_NopClearsErrcodeOnly : (readyState []).core.busy = false := rfl

theorem test_meets_InitIsAcceptedAndCompletes : State.reset.core.busy = false := rfl

theorem test_meets_ResyncIsAcceptedAndCompletes : (readyState []).core.busy = false ∧ (readyState []).core.keyed = true := ⟨rfl, rfl⟩

theorem test_meets_GenIsAcceptedAndCompletes :
    (readyState []).core.busy = false ∧ (readyState []).core.ready = true ∧
    (1 ≤ (1#5).toNat ∧ (1#5).toNat ≤ 16) ∧ (1 ≤ (16#5).toNat ∧ (16#5).toNat ≤ 16) := ⟨rfl, rfl, by decide, by decide⟩

theorem test_meets_GenZeroClearsErrcodeOnly : (readyState []).core.busy = false ∧ (readyState []).core.ready = true := ⟨rfl, rfl⟩

theorem test_meets_BusyRejectsEveryCmdWrite : (runningInit 0 []).core.busy = true ∧ (runningGen 0 []).core.busy = true := ⟨rfl, rfl⟩

theorem test_meets_ResyncWithoutKeyIsRejected : State.reset.core.busy = false ∧ State.reset.core.keyed = false := ⟨rfl, rfl⟩

theorem test_meets_GenBeforeReadyIsRejected :
    State.reset.core.busy = false ∧ State.reset.core.ready = false ∧ (0#5).toNat ≤ 16 ∧ (16#5).toNat ≤ 16 :=
  ⟨rfl, rfl, by decide, by decide⟩

theorem test_meets_RejectedWriteSetsErrcodeOnly :
    ∃ t, cmdWrite 0x2#32 State.reset = .next t ∧ t.core.errcode ≠ 0#3 := ⟨_, rfl, by decide +kernel⟩

/-- The five clauses: BUSY on a legal and on an illegal word; ILLEGAL on a RESYNC and a GEN that would fail later checks too;
NOKEY; NOTREADY; accepted words. -/
theorem test_meets_CmdWriteChecksInOrder :
    (runningInit 0 []).core.busy = true ∧
    (State.reset.core.busy = false ∧ illegalWord 0x12#32 ∧ illegalWord 0x113#32) ∧
    (¬illegalWord 0x2#32 ∧ (0x2#32).extractLsb' 0 4 = 2#4 ∧ State.reset.core.keyed = false) ∧
    (¬illegalWord 0x103#32 ∧ (0x103#32).extractLsb' 0 4 = 3#4 ∧ State.reset.core.ready = false) ∧
    ((readyState []).core.busy = false ∧ (readyState []).core.keyed = true ∧ (readyState []).core.ready = true ∧
      ¬illegalWord 0x0#32 ∧ ¬illegalWord 0x1#32) := by
  refine ⟨rfl, ⟨rfl, ?_⟩, ⟨?_, by decide, rfl⟩, ⟨?_, by decide, rfl⟩, rfl, rfl, rfl, ?_⟩ <;> (unfold illegalWord; decide)

theorem test_meets_ErrcodeChangesOnlyAtCmdWriteOrReset :
    (∃ t, step (machineAt State.reset.core 0 [.memWrite 0 4 2#32]) = .next t ∧ t.core.errcode ≠ State.reset.core.errcode) ∧
    (∃ t, step (machineAt { State.reset.core with errcode := 4 } 0 [.assertReset]) = .next t ∧ t.core.errcode ≠ 4#3) :=
  ⟨⟨_, rfl, by decide +kernel⟩, ⟨_, rfl, by decide +kernel⟩⟩

theorem test_meets_ExpansionTableObeysTheRecurrence : (16 ≤ 16 ∧ 16 < 1280) ∧ (16 ≤ 1279 ∧ 1279 < 1280) := by decide

theorem test_meets_InitializationDependsOnKeyAndIvAlone :
    (coreAt true true false .runInit).engine = .runInit ∧ (coreAt true true false .runResync).engine = .runResync ∧
    (coreAt true true false .runInit).key = (coreAt true true false .runResync).key ∧
    (coreAt true true false .runInit).iv = (coreAt true true false .runResync).iv := ⟨rfl, rfl, rfl, rfl⟩

/-- A keyed CORE and a second one whose KEYIN holds the first one's key; GENs of every count, a NOP and an illegal word follow. -/
theorem test_meets_ResyncEqualsFreshInit :
    let s1 := readyState []
    let s2 := machineAt { State.reset.core with keyin := s1.core.key, ivin := s1.core.ivin } 0 []
    s1.core.busy = false ∧ s1.core.keyed = true ∧ s2.core.busy = false ∧ s2.core.keyin = s1.core.key ∧
    s2.core.ivin = s1.core.ivin ∧
    ∀ w ∈ [0x13#32, 0x103#32, 0x3#32, 0x0#32, 0x4#32], decode w ≠ .ok .init ∧ decode w ≠ .ok .resync :=
  ⟨rfl, rfl, rfl, rfl, rfl, fun w hw => by
    simp only [List.mem_cons, List.not_mem_nil, or_false] at hw
    rcases hw with rfl | rfl | rfl | rfl | rfl <;> decide⟩

theorem test_meets_SameKeyAndIvSameKeystream :
    State.reset.core.busy = false ∧ (readyState []).core.busy = false ∧ State.reset.core.keyin = (readyState []).core.keyin ∧
    State.reset.core.ivin = (readyState []).core.ivin := ⟨rfl, rfl, rfl, rfl⟩

theorem test_meets_PStepUpdatesOneWordOfP :
    (coreAtCtr 0).ctr.getLsbD 9 = false ∧ (coreAtCtr 511).ctr.getLsbD 9 = false ∧ (12 : Index) ≠ stepIndex (coreAtCtr 511).ctr := by
  decide +kernel

theorem test_meets_QStepUpdatesOneWordOfQ :
    (coreAtCtr 512).ctr.getLsbD 9 = true ∧ (coreAtCtr 1023).ctr.getLsbD 9 = true ∧ (12 : Index) ≠ stepIndex (coreAtCtr 1023).ctr := by
  decide +kernel

theorem test_meets_StepAdvancesCounterAndWritesOneKbufWord :
    (1 : Fin 16) ≠ kbufIndex (coreAtCtr 0).ctr ∧ (0 : Fin 16) ≠ kbufIndex (coreAtCtr 1023).ctr := by decide +kernel

theorem test_meets_KbufHoldsTheSixteenMostRecentWords :
    (coreAtCtr 0).ctr = 0#10 ∧ (3 < 4 ∧ 4 ≤ 3 + 16) ∧ (3 < 19 ∧ 19 ≤ 3 + 16) := by decide +kernel

theorem test_meets_CounterCountsWordsAndPhasesAlternate :
    (coreAtCtr 0).ctr = 0#10 ∧ 0 % 1024 < 512 ∧ 511 % 1024 < 512 ∧ 512 ≤ 512 % 1024 ∧ 512 ≤ 1023 % 1024 ∧ 1024 % 1024 < 512 := by
  decide +kernel

theorem test_meets_EmissionIsContinuousAcrossCommands :
    (readyState []).core.engine = .idle ∧ (readyState []).core.busy = false ∧ (readyState []).core.ready = true ∧
    ∀ w ∈ [0x13#32, 0x0#32, 0x113#32, 0x103#32], decode w ≠ .ok .init ∧ decode w ≠ .ok .resync := ⟨rfl, rfl, rfl, fun w hw => by
    simp only [List.mem_cons, List.not_mem_nil, or_false] at hw
    rcases hw with rfl | rfl | rfl | rfl <;> decide⟩

/-- A host's turn, the completion of a GEN and of an INIT, and a reset. -/
theorem test_meets_CounterMovesForwardOnly :
    (∃ t, step (readyState []) = .next t) ∧ (∃ t, step (runningGen 0 []) = .next t) ∧ (∃ t, step (runningInit 0 []) = .next t) ∧
    ∃ t, step (readyState [.assertReset]) = .next t := ⟨⟨_, rfl⟩, ⟨_, rfl⟩, ⟨_, rfl⟩, ⟨_, rfl⟩⟩

/-- The host's turn with the engine idle and with a command running; accesses supported at both ends of the window, and not
supported past its ends, misaligned or narrow. -/
theorem test_meets_UnsupportedAccessesFault :
    hostHasTurn (readyState []) ∧ hostHasTurn (runningInit 1 []) ∧ supported 0x1000 0x1000 4 = true ∧
    supported 0x1000 0x107C 4 = true ∧ supported 0x1000 0x1080 4 = false ∧ supported 0x1000 0x0FFC 4 = false ∧
    supported 0x1000 0x1002 4 = false ∧ supported 0x1000 0x1004 1 = false :=
  ⟨.inl rfl, .inr (by decide), by decide⟩

theorem test_meets_StatusFields : (readyState []).core.busy = false ∧ (readyState []).core.errcode = 0#3 := ⟨rfl, rfl⟩

theorem test_meets_PseudoStatementsExpand :
    State.reset.core.engine = .idle ∧ (runningInit 4 []).core.engine ≠ .idle ∧ 4 ≤ (runningInit 4 []).turns := by decide +kernel

theorem test_meets_StepRunsTheDecodedCommand :
    decode 0x103#32 = .ok (.gen 16) ∧
    ((readyState [.memWrite 0 4 0x103#32]).inputs = [.memWrite (readyState []).base 4 0x103#32] ∧
      (readyState []).core.engine = .idle) ∧
    ((runningInit 1 [.memWrite 0 4 0x103#32]).core.engine ≠ .idle ∧ 0 < (runningInit 1 []).turns) := by decide +kernel

theorem test_meets_EngineTurnCompletesTheCommand : (runningInit 0 []).core.engine ≠ .idle ∧ (runningInit 0 []).turns = 0 := by
  decide +kernel

theorem test_meets_WaitEndsWithTheCommandCompleted :
    (runningInit 0 [.wait]).core.engine ≠ .idle ∧ (runningInit 0 [.wait]).core.busy = true ∧
    (runningGen 7 [.wait, .check]).core.engine ≠ .idle ∧ (runningGen 7 [.wait, .check]).inputs = [.wait, .check] := by decide +kernel

/-- The state before, and a state after the accepted INIT for each of the two clauses. -/
theorem test_meets_UnwaitedGenHasTwoOutcomes :
    let s := readyState [.memWrite 0 4 0x1#32, .memWrite 0 4 0x13#32]
    (s.core.engine = .idle ∧ s.core.busy = false ∧ s.inputs = [.memWrite s.base 4 0x1#32, .memWrite s.base 4 0x13#32]) ∧
    (runningInit 0 []).turns = 0 ∧ 0 < (runningInit 1 []).turns := ⟨⟨rfl, rfl, rfl⟩, rfl, by decide⟩

/-- A GEN's completion, an accepted INIT with a new key, and an accepted RESYNC with a new IV. -/
theorem test_meets_SecretsAreWrittenOnlyByCommandsAndReset :
    (∃ t, step (runningGen 0 []) = .next t) ∧ (∃ t, step (readyState [.memWrite 0 4 1#32]) = .next t ∧
      t.core.key = (readyState []).core.keyin) ∧
    (∃ t, step (readyState [.memWrite 0 4 2#32]) = .next t ∧ t.core.iv = (readyState []).core.ivin) ∧
    ∀ rest, (readyState [.memWrite 0 4 1#32]).inputs ≠ .assertReset :: rest :=
  ⟨⟨_, rfl⟩, ⟨_, rfl, rfl⟩, ⟨_, rfl, rfl⟩, fun _ h => by cases h⟩

/-- Two states that differ in their staged keys, their host reading a KBUF word, and the same with an unsupported access. -/
theorem test_meets_HostTurnRevealsNoSecret :
    let s := readyState [.memRead 0x40 4 none]
    let t := { s with core := { s.core with keyin := Vector.replicate 4 1#32 } }
    let u := readyState [.memRead 0x41 4 none]
    (hostEquiv s t ∧ s.core.keyin ≠ t.core.keyin ∧ ∃ v, hostTurn s = .next v) ∧ hostTurn u = .fault .busError :=
  ⟨⟨rfl, by decide +kernel, _, rfl⟩, rfl⟩

theorem test_meets_ResetInputResetsEveryComponent :
    ((readyState [.assertReset]).inputs = [.assertReset] ∧ hostHasTurn (readyState [.assertReset])) ∧
    ((runningInit 1 [.assertReset]).inputs = [.assertReset] ∧ hostHasTurn (runningInit 1 [.assertReset])) :=
  ⟨⟨rfl, .inl rfl⟩, rfl, .inr (by decide)⟩

/-- Reads of STATUS and of the first and the last word of KBUF, idle and while a command runs. -/
theorem test_meets_HostReadsRecordTheRegisterValue :
    (hostHasTurn (readyState []) ∧ (readyState []).core.busy = false) ∧
    (hostHasTurn (runningGen 1 []) ∧ (runningGen 1 []).core.busy = true) ∧
    busReg 0 0x04 4 = some .status ∧ busReg 0 0x40 4 = some (.kbuf 0) ∧ busReg 0 0x7C 4 = some (.kbuf 15) :=
  ⟨⟨.inl rfl, rfl⟩, ⟨.inr (by decide), rfl⟩, by decide⟩

theorem test_meets_HostWritesReachTheRegister :
    hostHasTurn (readyState []) ∧ hostHasTurn (runningGen 1 []) ∧ busReg 0 0x00 4 = some .cmd ∧
    busReg 0 0x2C 4 = some (.ivin 3) ∧ busReg 0 0x08 4 = some .reserved := ⟨.inl rfl, .inr (by decide), by decide⟩

/-- A CHECK with ERRCODE OK and one with ERRCODE BUSY. -/
theorem test_meets_CheckFlagsANonzeroErrcode :
    (hostHasTurn (readyState [.check]) ∧ (readyState [.check]).core.errcode = 0#3) ∧
    (let s := machineAt { coreAt true true false .runInit with errcode := 4 } 1 [.check]
     hostHasTurn s ∧ s.core.errcode ≠ 0#3 ∧ s.inputs = [.check]) :=
  ⟨⟨.inl rfl, rfl⟩, .inr (by decide), by decide +kernel, rfl⟩

theorem test_meets_WaitPollsUntilNotBusy :
    (hostHasTurn (readyState [.wait]) ∧ (readyState [.wait]).core.busy = false) ∧
    (hostHasTurn (runningGen 1 [.wait]) ∧ (runningGen 1 [.wait]).core.busy = true) :=
  ⟨⟨.inl rfl, rfl⟩, .inr (by decide), rfl⟩

/-- Legal states of each kind, each with a step that goes on. -/
theorem test_meets_EveryStepKeepsCoreLegal :
    ((readyState []).core.legal = true ∧ ∃ t, step (readyState [.memWrite 0 4 0x103#32]) = .next t) ∧
    ((runningInit 0 []).core.legal = true ∧ ∃ t, step (runningInit 0 []) = .next t) ∧
    ((runningGen 0 []).core.legal = true ∧ ∃ t, step (runningGen 0 []) = .next t) :=
  ⟨⟨by decide +kernel, _, rfl⟩, ⟨by decide +kernel, _, rfl⟩, ⟨by decide +kernel, _, rfl⟩⟩

theorem test_meets_SupportedProgramsNeverFault :
    programSupported (machineAt State.reset.core 0 [.memWrite 0 4 1#32, .wait, .check, .memRead 0x7C 4 none, .assertReset]) = true := by
  decide +kernel

theorem test_meets_BootSequenceMakesCoreReady :
    let p := expandProgram 0 [.setKey 1 2 3 4, .setIv 5 6 7 8, .init, .wait, .check]
    (machineAt State.reset.core 0 p).core.engine = .idle ∧ (machineAt State.reset.core 0 p).core.busy = false ∧
    (machineAt State.reset.core 0 p).programError = false ∧ (machineAt State.reset.core 0 p).inputs = p := ⟨rfl, rfl, rfl, rfl⟩

end Sys2Proof.Tests
end

section
/-! PROOF. The register window's reads and writes, and the settled statements about STATUS (R37), the accesses without effect (R42)
and the staging registers (R38, R39). -/

namespace Sys2Proof.Machine

/-! ### Reads and writes, one equation per register -/

@[simp] theorem readReg_cmd (s : State) : readReg .cmd s = (0#32, s) := rfl
@[simp] theorem readReg_keyin (i : Fin 4) (s : State) : readReg (.keyin i) s = (0#32, s) := rfl
@[simp] theorem readReg_ivin (i : Fin 4) (s : State) : readReg (.ivin i) s = (0#32, s) := rfl
@[simp] theorem readReg_reserved (s : State) : readReg .reserved s = (0#32, s) := rfl

@[simp] theorem writeReg_status (v : Word) (s : State) : writeReg .status v s = .next s := rfl
@[simp] theorem writeReg_kbuf (k : Fin 16) (v : Word) (s : State) : writeReg (.kbuf k) v s = .next s := rfl
@[simp] theorem writeReg_reserved (v : Word) (s : State) : writeReg .reserved v s = .next s := rfl
@[simp] theorem writeReg_keyin (i : Fin 4) (v : Word) (s : State) :
    writeReg (.keyin i) v s = .next (writeKeyin i v s) := rfl
@[simp] theorem writeReg_ivin (i : Fin 4) (v : Word) (s : State) :
    writeReg (.ivin i) v s = .next (writeIvin i v s) := rfl

/-! ### The addresses of the registers -/

/-- The layout of R35 read in both directions. -/
theorem regAt_regOffset (r : Reg) : regAt (regOffset r) = r := by
  cases r with
  | cmd | status | reserved => rfl
  | keyin i | ivin i | kbuf k => decide +revert

/-- Every register's offset is 4-byte-aligned and inside the window (R35, R67). -/
theorem supported_regOffset (base : Nat) (r : Reg) : supported base (base + regOffset r) 4 = true := by
  have : regOffset r % 4 = 0 ∧ regOffset r ≤ 0x7C := by
    cases r with
    | cmd | status | reserved => decide
    | keyin i | ivin i | kbuf k => simp only [regOffset]; omega
  simp [supported, this]

/-- A 32-bit access at a register's offset reaches that register (R35). -/
theorem busReg_regOffset (base : Nat) (r : Reg) : busReg base (base + regOffset r) 4 = some r := by
  rw [busReg, if_pos (supported_regOffset base r), Nat.add_sub_cancel_left, regAt_regOffset]

/-! ### The fields of STATUS -/

/-- ERR is 1 exactly when ERRCODE is not 0 (R37, R160). -/
theorem errFlag_iff (c : CoreState) : errFlag c = true ↔ c.errcode ≠ 0#3 := bne_iff_ne

/-- From bit 7 up a STATUS word holds reserved bits and then CTR's field (R37). -/
theorem statusWord_getLsbD_of_seven_le (c : CoreState) (x : BitVec 10) {i : Nat} (h : 7 ≤ i) :
    (statusWord c x).getLsbD i = if i < 16 then false else x.getLsbD (i - 16) := by
  rw [statusWord_getLsbD, if_neg (by omega), if_neg (by omega), if_neg (by omega), if_neg (by omega), if_neg (by omega)]

/-- Bits 15:7 of a STATUS word are reserved (R37). -/
theorem statusWord_reservedLow (c : CoreState) (x : BitVec 10) : (statusWord c x).extractLsb' 7 9 = 0#9 := by
  apply BitVec.eq_of_getLsbD_eq
  intro i hi
  rw [BitVec.getLsbD_extractLsb', statusWord_getLsbD_of_seven_le c x (by omega), if_pos (by omega)]
  simp

/-- Bits 25:16 of a STATUS word are CTR's field (R37). -/
theorem statusWord_ctrField (c : CoreState) (x : BitVec 10) : (statusWord c x).extractLsb' 16 10 = x := by
  apply BitVec.eq_of_getLsbD_eq
  intro i hi
  rw [BitVec.getLsbD_extractLsb', statusWord_getLsbD_of_seven_le c x (by omega), if_neg (by omega)]
  simp [hi]

/-- Bits 31:26 of a STATUS word are reserved (R37). -/
theorem statusWord_reservedHigh (c : CoreState) (x : BitVec 10) : (statusWord c x).extractLsb' 26 6 = 0#6 := by
  apply BitVec.eq_of_getLsbD_eq
  intro i hi
  rw [BitVec.getLsbD_extractLsb', statusWord_getLsbD_of_seven_le c x (by omega), if_neg (by omega),
    BitVec.getLsbD_of_ge x _ (by omega)]
  simp

/-- While CORE is not busy STATUS reads with CTR as it stands, and the read changes nothing (R37). -/
theorem readReg_status_of_not_busy {s : State} (h : s.core.busy = false) :
    readReg .status s = (statusWord s.core s.core.ctr, s) := by
  simp [readReg, readStatus, h]

/-- The STATUS word of a CORE just reset (R43). -/
theorem statusWord_afterReset (d : Nat) : statusWord (CoreState.afterReset d) 0 = 0#32 := by
  simp [statusWord, errFlag]

/-! ### The staging registers after reset -/

theorem afterReset_keyin_word (d : Nat) (i : Fin 4) : (CoreState.afterReset d).keyin[i] = 0#32 := by simp

theorem afterReset_ivin_word (d : Nat) (i : Fin 4) : (CoreState.afterReset d).ivin[i] = 0#32 := by simp

/-! ### The statements -/

/-- Settles O38: whatever stands in CTR's field, the read is a STATUS word, whose fields are those of R37. -/
theorem statusFields : Obligations.StatusFields := by
  refine ⟨fun s => ?_, fun s v => writeReg_status v s, ?fromReset⟩
  case fromReset =>
    rw [readReg_status_of_not_busy (s := State.reset) rfl]
    exact statusWord_afterReset 0
  obtain ⟨x, hx⟩ : ∃ x, (readReg .status s).1 = statusWord s.core x := readStatus_value s
  have hctr : s.core.busy = false → (readReg .status s).1.extractLsb' 16 10 = s.core.ctr := fun h => by
    rw [readReg_status_of_not_busy h, statusWord_ctrField]
  refine ⟨?busy, ?keyed, ?ready, ?err, ?errcode, ?low, ?high, hctr⟩ <;> rw [hx]
  case busy => exact statusBusy_statusWord s.core x
  case keyed => exact statusWord_getLsbD s.core x 1
  case ready => exact statusWord_getLsbD s.core x 2
  case err => exact statusWord_getLsbD s.core x 3 ▸ errFlag_iff s.core
  case errcode => exact statusErrcode_statusWord s.core x
  case low => exact statusWord_reservedLow s.core x
  case high => exact statusWord_reservedHigh s.core x

/-- Settles O40: each access is one of the register equations above. -/
theorem wrongWayAccessesHaveNoEffect : Obligations.WrongWayAccessesHaveNoEffect := fun s v =>
  ⟨writeReg_status v s, writeReg_reserved v s, fun k => writeReg_kbuf k v s, readReg_cmd s,
    fun i => ⟨readReg_keyin i s, readReg_ivin i s⟩⟩

/-- Settles O41: the offsets by `busReg_regOffset`, the accesses by the register equations. -/
theorem stagingRegistersAreWriteOnly : Obligations.StagingRegistersAreWriteOnly := by
  intro s v i
  refine ⟨⟨?keyinAddr, writeReg_keyin i v s, congrArg Prod.fst (readReg_keyin i s), afterReset_keyin_word 0 i⟩,
    ?ivinAddr, writeReg_ivin i v s, congrArg Prod.fst (readReg_ivin i s), afterReset_ivin_word 0 i⟩
  case keyinAddr => rw [Nat.add_assoc]; exact busReg_regOffset s.base (.keyin i)
  case ivinAddr => rw [Nat.add_assoc]; exact busReg_regOffset s.base (.ivin i)

end Sys2Proof.Machine
end

section
/-! PROOF. The bus error of the host's accesses: which accesses reach a register, that a write which reaches one always goes on, and
the settled statement about the accesses that are not supported (R67). -/

namespace Sys2Proof.Machine

/-! ### Writes that reach a register go on -/

/-- No command's meaning ends in a fault or a refusal: it rejects or accepts, and the machine goes on (R160 to R167). -/
theorem exec_next (i : Instr) (s : State) : ∃ t, exec i s = .next t := by
  rcases exec_cases i s with ⟨_, -, -, h⟩ | ⟨-, -, h⟩ | ⟨-, -, h⟩ | ⟨-, -, -, h⟩ | ⟨_, -, -, -, -, -, h⟩ <;> exact ⟨_, h⟩

/-- A CMD write of any word goes on, the illegal ones with ERRCODE set (R161). -/
theorem cmdWrite_next (w : Word) (s : State) : ∃ t, cmdWrite w s = .next t := by
  rcases cmdWrite_cases w s with ⟨_, -, h⟩ | ⟨i, -, h⟩
  · exact ⟨_, h⟩
  · rw [h]; exact exec_next i s

theorem writeReg_next (r : Reg) (v : Word) (s : State) : ∃ t, writeReg r v s = .next t := by
  cases r with
  | cmd => exact cmdWrite_next v s
  | status | reserved => exact ⟨s, rfl⟩
  | kbuf k => exact ⟨s, writeReg_kbuf k v s⟩
  | keyin i => exact ⟨_, writeReg_keyin i v s⟩
  | ivin i => exact ⟨_, writeReg_ivin i v s⟩

/-! ### Accesses that reach no register -/

/-- The accesses that reach no register are those R67 does not allow. -/
theorem busReg_eq_none_iff (base addr width : Nat) :
    busReg base addr width = none ↔ ¬(width = 4 ∧ base ≤ addr ∧ (addr - base) % 4 = 0 ∧ addr - base ≤ 0x7C) := by
  simp only [busReg, supported, decide_eq_true_eq, ite_eq_right_iff, reduceCtorEq, imp_false]

/-- A read ends in the bus error exactly when it reaches no register. -/
theorem memRead_fault_iff (addr width : Nat) (name : Option String) (s : State) :
    memRead addr width name s = .fault .busError ↔ busReg s.base addr width = none := by
  cases h : busReg s.base addr width with
  | none => simp [memRead, h]
  | some r => simp [memRead_of_busReg h]

/-- A write ends in the bus error exactly when it reaches no register. -/
theorem memWrite_fault_iff (addr width : Nat) (v : Word) (s : State) :
    memWrite addr width v s = .fault .busError ↔ busReg s.base addr width = none := by
  cases h : busReg s.base addr width with
  | none => simp [memWrite, h]
  | some r =>
    obtain ⟨t, ht⟩ := writeReg_next r v s
    simp [memWrite_of_busReg h, ht]

/-! ### An access in a turn of the host -/

/-- A step whose next statement is a host read is that read, in a turn of the host (R69). -/
theorem step_memRead {s : State} (hturn : hostHasTurn s) (addr width : Nat) (name : Option String) (rest : List Input) :
    step { s with inputs := .memRead addr width name :: rest } =
      memRead addr width name { s with inputs := rest, turns := turnsAfter 1 s } :=
  step_hostHasTurn (s := { s with inputs := .memRead addr width name :: rest }) hturn

/-- A step whose next statement is a host write is that write, in a turn of the host (R69). -/
theorem step_memWrite {s : State} (hturn : hostHasTurn s) (addr width : Nat) (v : Word) (rest : List Input) :
    step { s with inputs := .memWrite addr width v :: rest } =
      memWrite addr width v { s with inputs := rest, turns := turnsAfter 1 s } :=
  step_hostHasTurn (s := { s with inputs := .memWrite addr width v :: rest }) hturn

/-! ### The statement -/

/-- Settles O37: in a turn of the host the step is the access itself, which faults exactly when it reaches no register. -/
theorem unsupportedAccessesFault : Obligations.UnsupportedAccessesFault := by
  intro s addr width name v rest hturn ok
  constructor
  · rw [step_memRead hturn, memRead_fault_iff]
    exact busReg_eq_none_iff s.base addr width
  · rw [step_memWrite hturn, memWrite_fault_iff]
    exact busReg_eq_none_iff s.base addr width

end Sys2Proof.Machine
end

section
/-! PROOF. The decoder's two answers, a command whose word the encoder writes or an error on one of R83's grounds, and the settled
statements about the legal words (R84) and about the rejection of the illegal ones (R83, R161). -/

namespace Sys2Proof.Machine

/-! ### A command word and its fields -/

/-- A word is its three fields, RSV, N and OP from the top (R80). -/
theorem fields_append (w : Word) : rsvField w ++ nField w ++ opField w = w := by
  apply BitVec.eq_of_getLsbD_eq
  intro k _
  simp only [BitVec.getLsbD_append, rsvField, nField, opField, BitVec.getLsbD_extractLsb']
  by_cases hop : k < 4
  · simp [hop]
  · by_cases hn : k - 4 < 5
    · simp [hop, hn, show 4 + (k - 4) = k by omega]
    · simp [hop, hn, show 9 + (k - 4 - 5) = k by omega, show k - 4 - 5 < 23 by omega]

/-- The four grounds of R83 on the fields of the word. -/
theorem illegalWord_iff (w : Word) :
    illegalWord w ↔ rsvField w ≠ 0#23 ∨ 4 ≤ (opField w).toNat ∨ (opField w = 3#4 ∧ 16 < (nField w).toNat) ∨
      ((opField w).toNat < 3 ∧ nField w ≠ 0#5) := Iff.rfl

/-- The word of GEN n is 3 + 16 n (R84). -/
theorem encode_gen_eq_ofNat (n : BitVec 5) : encode (.gen n) = BitVec.ofNat 32 (3 + 16 * n.toNat) := by
  rw [← encode_gen_toNat, BitVec.ofNat_toNat, BitVec.setWidth_eq]

/-- The word of GEN n as a sum of words, 3 + 16 n without wrapping (R8, R84). -/
theorem encode_gen_eq_add (n : BitVec 5) : encode (.gen n) = 0x00000003#32 + 16#32 * n.zeroExtend 32 := by
  apply BitVec.eq_of_toNat_eq
  have hn := n.isLt
  rw [encode_gen_toNat]
  simp only [BitVec.toNat_add, BitVec.toNat_mul, BitVec.toNat_setWidth, BitVec.toNat_ofNat]
  omega

/-! ### What the decoder answers -/

/-- An operation below GEN's is the command with that operation code, decoded without a count (R82). -/
theorem decode_of_op_lt_three {w : Word} (hrsv : rsvField w = 0#23) (hop : (opField w).toNat < 3) :
    ∃ i : Instr, i.wellFormed = true ∧ encode i = 0#23 ++ 0#5 ++ opField w ∧ decode w = decodeUncounted w i := by
  have hcodes : opField w = 0#4 ∨ opField w = 1#4 ∨ opField w = 2#4 := by bv_omega
  rcases hcodes with h | h | h
  · exact ⟨.nop, rfl, by rw [h]; rfl, by simp [decode, hrsv, h]⟩
  · exact ⟨.init, rfl, by rw [h]; rfl, by simp [decode, hrsv, h]⟩
  · exact ⟨.resync, rfl, by rw [h]; rfl, by simp [decode, hrsv, h]⟩

/-- GEN's operation code is a GEN of the count in the N field, unless that is above 16 (R82, R83). -/
theorem decode_of_op_eq_three {w : Word} (hrsv : rsvField w = 0#23) (hop : opField w = 3#4) :
    decode w = if (nField w).toNat ≤ 16 then .ok (.gen (nField w)) else .error .countAbove16 := by
  simp [decode, hrsv, hop]

/-- The operation codes above GEN's are reserved (R81, R83). -/
theorem decode_of_three_lt_op {w : Word} (hrsv : rsvField w = 0#23) (hop : 3 < (opField w).toNat) :
    decode w = .error .reservedOperation := by
  rw [decode, if_pos hrsv]
  split
  case h_5 => rfl
  all_goals omega

/-- All the decoder can answer: a legal command, whose word this is, or an error on a word with one of the four grounds. -/
theorem decode_cases (w : Word) :
    (∃ i : Instr, i.wellFormed = true ∧ encode i = w ∧ decode w = .ok i) ∨
    (illegalWord w ∧ ∃ e, decode w = .error e) := by
  by_cases hrsv : rsvField w = 0#23
  case neg => exact .inr ⟨.inl hrsv, .reservedBits, if_neg hrsv⟩
  have hw : 0#23 ++ nField w ++ opField w = w := hrsv ▸ fields_append w
  rcases Nat.lt_trichotomy (opField w).toNat 3 with hop | hop | hop
  · obtain ⟨i, hwf, henc, hdec⟩ := decode_of_op_lt_three hrsv hop
    by_cases hn : nField w = 0#5
    · exact .inl ⟨i, hwf, by rw [henc, ← hn, hw], by rw [hdec, decodeUncounted, if_pos hn]⟩
    · exact .inr ⟨.inr (.inr (.inr ⟨hop, hn⟩)), .countWithoutOperand, by rw [hdec, decodeUncounted, if_neg hn]⟩
  · have hop3 : opField w = 3#4 := BitVec.eq_of_toNat_eq hop
    have hdec := decode_of_op_eq_three hrsv hop3
    by_cases hn : (nField w).toNat ≤ 16
    · exact .inl ⟨.gen (nField w), decide_eq_true hn, by rw [encode, ← hop3, hw], by rw [hdec, if_pos hn]⟩
    · exact .inr ⟨.inr (.inr (.inl ⟨hop3, Nat.lt_of_not_le hn⟩)), .countAbove16, by rw [hdec, if_neg hn]⟩
  · exact .inr ⟨.inr (.inl hop), .reservedOperation, decode_of_three_lt_op hrsv hop⟩

/-- The word of a legal command decodes to that command. -/
theorem decode_encode {i : Instr} (hwf : i.wellFormed = true) : decode (encode i) = .ok i := by
  cases i with
  | nop | init | resync => rfl
  | gen n =>
    rw [decode_of_op_eq_three (rsvField_encode _) (opField_encode_gen n), nField_encode_gen]
    exact if_pos (of_decide_eq_true hwf)

/-- No ground of R83 holds of the word of a legal command. -/
theorem not_illegalWord_encode {i : Instr} (hwf : i.wellFormed = true) : ¬ illegalWord (encode i) := by
  cases i with
  | nop | init | resync => unfold illegalWord; decide
  | gen n =>
    have hn : n.toNat ≤ 16 := of_decide_eq_true hwf
    simp [illegalWord_iff, hn]

/-- The decoder and the encoder agree on the legal commands and on nothing else (R80 to R84). -/
theorem decode_eq_ok_iff (w : Word) (i : Instr) : decode w = .ok i ↔ i.wellFormed = true ∧ encode i = w := by
  constructor
  · intro h
    rcases decode_cases w with ⟨j, hwf, henc, hj⟩ | ⟨-, e, he⟩
    · obtain rfl : j = i := Except.ok.inj (hj.symm.trans h)
      exact ⟨hwf, henc⟩
    · cases he.symm.trans h
  · rintro ⟨hwf, rfl⟩
    exact decode_encode hwf

/-- Each legal command has one word. -/
theorem decode_eq_ok_iff_of_wellFormed {i : Instr} (hwf : i.wellFormed = true) (w : Word) :
    decode w = .ok i ↔ w = encode i := by
  rw [decode_eq_ok_iff, and_iff_right hwf, eq_comm]

/-- A word that is the word of no legal command is an error, and no other word is. -/
theorem decode_error_iff (w : Word) :
    (∃ e, decode w = .error e) ↔ ∀ i : Instr, i.wellFormed = true → encode i ≠ w := by
  cases h : decode w with
  | ok i =>
    obtain ⟨hwf, henc⟩ := (decode_eq_ok_iff w i).mp h
    exact ⟨fun ⟨_, he⟩ => (nomatch he), fun hall => absurd henc (hall i hwf)⟩
  | error e =>
    refine ⟨fun _ i hwf henc => ?_, fun _ => ⟨e, rfl⟩⟩
    cases h.symm.trans ((decode_eq_ok_iff w i).mpr ⟨hwf, henc⟩)

/-- The words of no legal command, written out: not one of the 20 words of R84. -/
theorem forall_encode_ne_iff (w : Word) :
    (∀ i : Instr, i.wellFormed = true → encode i ≠ w) ↔
      (w ≠ 0#32 ∧ w ≠ 1#32 ∧ w ≠ 2#32 ∧ ∀ n : Nat, n ≤ 16 → w ≠ BitVec.ofNat 32 (3 + 16 * n)) := by
  constructor
  · intro hall
    refine ⟨(hall .nop rfl).symm, (hall .init rfl).symm, (hall .resync rfl).symm, fun n hn => ?_⟩
    have hcount : (BitVec.ofNat 5 n).toNat = n := Nat.mod_eq_of_lt (by omega)
    have hne := hall (.gen (BitVec.ofNat 5 n)) (decide_eq_true (by omega))
    rw [encode_gen_eq_ofNat, hcount] at hne
    exact hne.symm
  · rintro ⟨hnop, hinit, hresync, hgen⟩ i hwf
    cases i with
    | nop => exact hnop.symm
    | init => exact hinit.symm
    | resync => exact hresync.symm
    | gen n =>
      rw [encode_gen_eq_ofNat]
      exact (hgen n.toNat (of_decide_eq_true hwf)).symm

/-- The decoder's errors are R83's four grounds. -/
theorem decode_error_iff_illegalWord (w : Word) : (∃ e, decode w = .error e) ↔ illegalWord w := by
  rcases decode_cases w with ⟨i, hwf, rfl, hi⟩ | ⟨hill, herr⟩
  · simp [hi, not_illegalWord_encode hwf]
  · exact iff_of_true herr hill

/-! ### A CMD write of an illegal word -/

/-- An illegal word is rejected: with BUSY while a command runs, with ILLEGAL otherwise (R161, R164, R167). -/
theorem cmdWrite_of_illegalWord {w : Word} (h : illegalWord w) (s : State) :
    cmdWrite w s = .next (raiseCmdError (if s.core.busy then errBusy else errIllegal) s) := by
  obtain ⟨e, he⟩ := (decode_error_iff_illegalWord w).mpr h
  rcases cmdWrite_cases w s with ⟨_, -, hw⟩ | ⟨i, hi, -⟩
  · exact hw
  · cases he.symm.trans hi

/-! ### The statements -/

/-- Settles O2: each command's clause is the decoder's agreement with the encoder at that command's word, and the errors are the
words of no legal command. -/
theorem legalWordsAreTheTwenty : Obligations.LegalWordsAreTheTwenty := by
  refine ⟨decode_eq_ok_iff_of_wellFormed (i := .nop) rfl, decode_eq_ok_iff_of_wellFormed (i := .init) rfl,
    decode_eq_ok_iff_of_wellFormed (i := .resync) rfl, fun w n => ?gen, fun w => ?error⟩
  case gen => rw [decode_eq_ok_iff, encode_gen_eq_add, Instr.wellFormed, decide_eq_true_iff, eq_comm (b := w)]
  case error => rw [decode_error_iff, forall_encode_ne_iff]

/-- Settles O3: the grounds by the decoder's two answers, the rejection by the CMD write of an illegal word. -/
theorem illegalWordsAreRejected : Obligations.IllegalWordsAreRejected := by
  refine fun w => ⟨decode_error_iff_illegalWord w, fun hill s hbusy => ?_⟩
  rw [cmdWrite_of_illegalWord hill, hbusy]
  rfl

end Sys2Proof.Machine
end

section
/-! PROOF. The helper functions: the word rotations are the library's, the h lookups read bytes 0 and 2 of their word alone, and the
settled statements about f1 and f2 (R101, R102), g1 and g2 (R103, R104), and h1 and h2 (R105, R106). -/

namespace Sys2Proof.Machine

/-! ### Rotations -/

theorem rotr_eq_rotateRight (x : Word) {n : Nat} (hn : n < 32) : rotr x n = x.rotateRight n := by
  rw [BitVec.rotateRight_def, Nat.mod_eq_of_lt hn, rotr]

/-- A left rotation is written as a right one by the rest of the word (R8), so its two shifts stand in the other order. -/
theorem rotl_eq_rotateLeft (x : Word) {n : Nat} (hn : n < 32) : rotl x n = x.rotateLeft n := by
  rw [BitVec.rotateLeft_def, Nat.mod_eq_of_lt hn, rotl, rotr, Nat.sub_sub_self hn.le, BitVec.or_comm]

/-! ### The h lookups -/

theorem hLow_eq (x : Word) : hLow x = ⟨(x.extractLsb' 0 8).toNat, by omega⟩ := rfl

theorem hHigh_eq (x : Word) : hHigh x = ⟨256 + (x.extractLsb' 16 8).toNat, by omega⟩ := rfl

theorem hLow_congr {x y : Word} (h : byteOf x 0 = byteOf y 0) : hLow x = hLow y := by
  simp only [hLow, h]

theorem hHigh_congr {x y : Word} (h : byteOf x 2 = byteOf y 2) : hHigh x = hHigh y := by
  simp only [hHigh, h]

/-- A mask with all the bits of byte k keeps that byte. -/
theorem byteOf_and_of_allOnes (x : Word) {m : Word} {k : Fin 4} (hm : byteOf m k = BitVec.allOnes 8) :
    byteOf (x &&& m) k = byteOf x k :=
  calc byteOf (x &&& m) k = byteOf x k &&& byteOf m k := BitVec.extractLsb'_and
    _ = byteOf x k := by rw [hm, BitVec.and_allOnes]

/-- The mask of R105 keeps bytes 0 and 2. -/
theorem hLow_and_mask (x : Word) : hLow (x &&& 0x00FF00FF#32) = hLow x :=
  hLow_congr (byteOf_and_of_allOnes x rfl)

theorem hHigh_and_mask (x : Word) : hHigh (x &&& 0x00FF00FF#32) = hHigh x :=
  hHigh_congr (byteOf_and_of_allOnes x rfl)

/-! ### The statements -/

/-- Settles O18: the filters read the table at the two h lookups alone, whose bytes the mask keeps. -/
theorem outputFiltersAddTwoTableWords : Obligations.OutputFiltersAddTwoTableWords := by
  intro T x
  rw [← hLow_eq, ← hHigh_eq]
  refine ⟨rfl, rfl, ?h1Mask, ?h2Mask⟩
  case h1Mask => rw [h1, h1, hLow_and_mask, hHigh_and_mask]
  case h2Mask => rw [h2, h2, hLow_and_mask, hHigh_and_mask]

/-- Settles O16: each rotation amount is below the word's width, so it is the library's rotation. -/
theorem expansionFunctionsAreRotations : Obligations.ExpansionFunctionsAreRotations := by
  refine fun x => ⟨?first, ?second⟩
  case first => simp only [f1, rotr_eq_rotateRight, Nat.reduceLT]
  case second => simp only [f2, rotr_eq_rotateRight, Nat.reduceLT]

/-- Settles O17: the combiners by the rotations, the operands of the two steps as the updates are defined (R140, R141). -/
theorem feedbackCombinersAreRotations : Obligations.FeedbackCombinersAreRotations := by
  refine ⟨fun x y z => ⟨?right, ?left⟩, fun _ _ => rfl, fun _ _ => rfl⟩
  case right => simp only [g1, rotr_eq_rotateRight, Nat.reduceLT]
  case left => simp only [g2, rotl_eq_rotateLeft, Nat.reduceLT]

end Sys2Proof.Machine
end

section
/-! PROOF. The expansion table W: the loop that extends it keeps the words it has and appends the word of R122, and the settled
statements about the table (R120 to R122) and about the load of P and Q from it (R123). -/

namespace Sys2Proof.Machine

/-! ### The recurrence on a table in order -/

/-- The word R122 asks for at index `i` of a table in order, oldest word first. -/
def recurrenceWord (w : List Word) (i : Nat) : Word :=
  f2 (w.getD (i - 2) 0) + w.getD (i - 7) 0 + f1 (w.getD (i - 15) 0) + w.getD (i - 16) 0 + BitVec.ofNat 32 i

/-- Every word of the table past the seed is the one R122 asks for. -/
def ObeysRecurrence (w : List Word) : Prop := ∀ i, 16 ≤ i → i < w.length → w.getD i 0 = recurrenceWord w i

/-- The model's next word, read newest word first, is R122's at the end of the table. -/
theorem nextW_eq_recurrenceWord {w : List Word} (h : 16 ≤ w.length) :
    nextW w.length w.reverse = recurrenceWord w w.length := by
  have hread : ∀ k < 16, w.reverse.getD k 0 = w.getD (w.length - (k + 1)) 0 := fun k hk => by
    rw [List.getD_reverse k (by omega), Nat.sub_sub, Nat.add_comm 1]
  rw [nextW, hread 1 (by decide), hread 6 (by decide), hread 14 (by decide), hread 15 (by decide)]
  rfl

/-- R122 reads words before its index alone, so words appended at or after it do not change what it asks for. -/
theorem recurrenceWord_append (w v : List Word) {i : Nat} (hseed : 16 ≤ i) (hi : i ≤ w.length) :
    recurrenceWord (w ++ v) i = recurrenceWord w i := by
  have hread : ∀ k < i, (w ++ v).getD k 0 = w.getD k 0 := fun k hk => List.getD_append w v 0 k (by omega)
  rw [recurrenceWord, hread _ (by omega), hread _ (by omega), hread _ (by omega), hread _ (by omega), recurrenceWord]

theorem obeysRecurrence_concat {w : List Word} (hw : ObeysRecurrence w) :
    ObeysRecurrence (w ++ [recurrenceWord w w.length]) := by
  intro i hseed hi
  rw [List.length_append, List.length_singleton] at hi
  rw [recurrenceWord_append w _ hseed (by omega)]
  rcases Nat.lt_or_eq_of_le (Nat.le_of_lt_succ hi) with hlt | rfl
  · rw [List.getD_append _ _ _ _ hlt, hw i hseed hlt]
  · simp

/-! ### The loop -/

/-- One pass of the loop on a table in order appends R122's word. -/
theorem extendW_succ (n : Nat) {w : List Word} (h16 : 16 ≤ w.length) :
    extendW (n + 1) w.length w.reverse =
      extendW n (w ++ [recurrenceWord w w.length]).length (w ++ [recurrenceWord w w.length]).reverse := by
  rw [extendW, nextW_eq_recurrenceWord h16, List.reverse_concat, List.length_append, List.length_singleton]

/-- What `n` passes do to a table that obeys R122: its words stay, `n` more follow, and the whole obeys R122. -/
theorem extendW_spec (n : Nat) {w : List Word} (h16 : 16 ≤ w.length) (hw : ObeysRecurrence w) :
    w <+: (extendW n w.length w.reverse).reverse ∧ (extendW n w.length w.reverse).length = w.length + n ∧
      ObeysRecurrence (extendW n w.length w.reverse).reverse := by
  induction n generalizing w with
  | zero => simpa [extendW] using hw
  | succ n ih =>
    rw [extendW_succ n h16]
    obtain ⟨hprefix, hlen, hobeys⟩ := ih (by simp; omega) (obeysRecurrence_concat hw)
    refine ⟨(List.prefix_append w _).trans hprefix, ?_, hobeys⟩
    rw [hlen, List.length_append, List.length_singleton, Nat.add_assoc, Nat.add_comm 1]

/-! ### The seed -/

@[simp] theorem length_expandQuad (q : Quad) : (expandQuad q).length = 8 := by simp [expandQuad]

@[simp] theorem length_seedW (kw vw : Quad) : (seedW kw vw).length = 16 := by simp [seedW]

/-- The expanded quad holds each word twice, four places apart (R120). -/
theorem expandQuad_getD (q : Quad) (i : Fin 4) :
    (expandQuad q).getD i.val 0 = q[i] ∧ (expandQuad q).getD (i.val + 4) 0 = q[i] := by
  have hi : i.val < q.toList.length := by simp
  have hword : q.toList.getD i.val 0 = q[i] := by rw [List.getD_eq_getElem _ _ hi, Vector.getElem_toList]; rfl
  constructor
  · rw [expandQuad, List.getD_append _ _ _ _ hi, hword]
  · rw [expandQuad, List.getD_append_right _ _ _ _ (by simp), ← hword]
    simp

/-- The seed holds the key twice and then the IV twice (R121). -/
theorem seedW_getD (kw vw : Quad) (i : Fin 4) :
    (seedW kw vw).getD i.val 0 = kw[i] ∧ (seedW kw vw).getD (i.val + 4) 0 = kw[i] ∧
      (seedW kw vw).getD (i.val + 8) 0 = vw[i] ∧ (seedW kw vw).getD (i.val + 12) 0 = vw[i] := by
  obtain ⟨hk0, hk4⟩ := expandQuad_getD kw i
  obtain ⟨hv0, hv4⟩ := expandQuad_getD vw i
  have hfront : ∀ k < 8, (seedW kw vw).getD k 0 = (expandQuad kw).getD k 0 := fun k hk =>
    List.getD_append _ _ _ _ (by simpa using hk)
  have hback : ∀ k, (seedW kw vw).getD (k + 8) 0 = (expandQuad vw).getD k 0 := fun k => by
    rw [seedW, List.getD_append_right _ _ _ _ (by simp), length_expandQuad, Nat.add_sub_cancel]
  exact ⟨(hfront _ (by omega)).trans hk0, (hfront _ (by omega)).trans hk4, (hback _).trans hv0, (hback (i.val + 4)).trans hv4⟩

/-- The seed has no word past index 15. -/
theorem obeysRecurrence_seedW (kw vw : Quad) : ObeysRecurrence (seedW kw vw) := by
  intro i hseed hi
  rw [length_seedW] at hi
  omega

/-! ### The expansion table -/

/-- W starts with the seed, has 1280 words and obeys R122 (R120 to R122). -/
theorem expansion_spec (kw vw : Quad) :
    seedW kw vw <+: expansion kw vw ∧ (expansion kw vw).length = 1280 ∧ ObeysRecurrence (expansion kw vw) := by
  have h := extendW_spec 1264 (length_seedW kw vw).ge (obeysRecurrence_seedW kw vw)
  rw [length_seedW] at h
  unfold expansion
  rwa [List.length_reverse]

/-- The first 16 words of W are the seed. -/
theorem expansion_getD_of_lt (kw vw : Quad) {i : Nat} (hi : i < 16) :
    (expansion kw vw).getD i 0 = (seedW kw vw).getD i 0 := by
  obtain ⟨rest, hrest⟩ := (expansion_spec kw vw).1
  rw [← hrest, List.getD_append _ _ _ _ (by simpa using hi)]

/-! ### The load -/

/-- Reading past the first `n` words of a list. -/
theorem getD_drop_eq (w : List Word) (n j : Nat) : (w.drop n).getD j 0 = w.getD (j + n) 0 := by
  rw [List.getD_eq_getElem?_getD, List.getElem?_drop, Nat.add_comm, List.getD_eq_getElem?_getD]

/-! ### The statements -/

/-- Settles O21: the loop keeps the seed and appends the words of the recurrence. -/
theorem expansionTableObeysTheRecurrence : Obligations.ExpansionTableObeysTheRecurrence := by
  intro kw vw W
  obtain ⟨-, hlen, hobeys⟩ := expansion_spec kw vw
  refine ⟨hlen, fun i => ?seed, fun i hseed hi => hobeys i hseed (hlen ▸ hi)⟩
  case seed =>
    have hW : ∀ k < 16, W k = (seedW kw vw).getD k 0 := fun k hk => expansion_getD_of_lt kw vw hk
    rw [hW _ (by omega), hW _ (by omega), hW _ (by omega), hW _ (by omega)]
    exact seedW_getD kw vw i

/-- Settles O22: the two loads read W from 256 and from 768 on. -/
theorem tablesAreLoadedFromTheExpansion : Obligations.TablesAreLoadedFromTheExpansion := by
  refine fun w c j => ⟨?fromP, ?fromQ⟩
  case fromP => rw [loadTables_P, tableRead_tableOf, getD_drop_eq]
  case fromQ => rw [loadTables_Q, tableRead_tableOf, getD_drop_eq]

end Sys2Proof.Machine
end

section
/-! PROOF. The initializer: a loop over a table whose pass `j` writes word `j` alone, the two warm-ups as such loops, and the settled
statements about them (R124, R125) and about the initializer's five steps (R120 to R127). -/

namespace Sys2Proof.Machine

/-! ### A loop whose pass `j` writes word `j` -/

/-- The table before pass `j` of such a loop: `done`'s words below `j`, `start`'s from `j` on. -/
def tableMidway (done start : Table) (j : Index) : Table :=
  tableOf fun i => if i < j then tableRead done i else tableRead start i

@[simp] theorem tableRead_tableMidway (done start : Table) (j i : Index) :
    tableRead (tableMidway done start j) i = if i < j then tableRead done i else tableRead start i :=
  tableRead_tableOf _ i

/-- A write at or above `j` is not seen below `j`. -/
theorem tableMidway_tableWrite (done start : Table) {i j : Index} (v : Word) (h : i ≤ j) :
    tableMidway (tableWrite done j v) start i = tableMidway done start i := by
  refine table_ext fun k => ?_
  rw [tableRead_tableMidway, tableRead_tableMidway]
  split
  · next hk => exact tableRead_tableWrite_ne done v (ne_of_lt (lt_of_lt_of_le hk h))
  · rfl

/-- A table that is still `start` from `j` on is its own table before pass `j`. -/
theorem tableMidway_self {done start : Table} {j : Index} (h : ∀ i, j ≤ i → tableRead done i = tableRead start i) :
    tableMidway done start j = done := by
  refine table_ext fun k => ?_
  rw [tableRead_tableMidway]
  split
  · rfl
  · next hk => exact (h k (le_of_not_gt hk)).symm

/-- The table after the first `n` passes of a loop that writes `v j` at word `j`: each word below `n` is what its pass computed from
the table before it, and the others are still the first ones. -/
def WrittenBelow (v : Index → Table → Word) (start : Table) (n : Nat) (t : Table) : Prop :=
  (∀ i : Index, i.val < n → tableRead t i = v i (tableMidway t start i)) ∧
  (∀ i : Index, n ≤ i.val → tableRead t i = tableRead start i)

theorem writtenBelow_zero (v : Index → Table → Word) (start : Table) : WrittenBelow v start 0 start :=
  ⟨fun i hi => absurd hi (Nat.not_lt_zero i.val), fun _ _ => rfl⟩

/-- One pass. -/
theorem writtenBelow_tableWrite {v : Index → Table → Word} {start t : Table} {j : Index}
    (h : WrittenBelow v start j.val t) : WrittenBelow v start (j.val + 1) (tableWrite t j (v j t)) := by
  obtain ⟨hbelow, habove⟩ := h
  constructor
  · intro i hi
    have hij : i ≤ j := Nat.le_of_lt_succ hi
    rw [tableMidway_tableWrite t start (v j t) hij]
    rcases lt_or_eq_of_le hij with hlt | rfl
    · rw [tableRead_tableWrite_ne t (v j t) (ne_of_lt hlt)]
      exact hbelow i hlt
    · rw [tableRead_tableWrite_same, tableMidway_self habove]
  · intro i hi
    have hne : i ≠ j := fun e => absurd hi (by rw [e]; exact Nat.not_succ_le_self j.val)
    rw [tableRead_tableWrite_ne t (v j t) hne]
    exact habove i (Nat.le_of_succ_le hi)

/-- The word such a loop leaves at `j` is what pass `j` computed from the table before it. -/
theorem tableRead_forTable_tableWrite (v : Index → Table → Word) (start : Table) (j : Index) :
    tableRead (forTable (fun j t => tableWrite t j (v j t)) start) j =
      v j (tableMidway (forTable (fun j t => tableWrite t j (v j t)) start) start j) :=
  (forTable_induction _ (WrittenBelow v start) start (writtenBelow_zero v start)
    fun _ _ h => writtenBelow_tableWrite h).1 j j.isLt

/-! ### The warm-ups -/

/-- The word pass `j` of the P warm-up writes, from P before that pass (R124). -/
theorem tableRead_warmUpP_P (c : CoreState) (j : Index) :
    tableRead (warmUpP c).P j =
      pUpdate (tableMidway (warmUpP c).P c.P j) j ^^^
        h1 c.Q (tableRead (tableMidway (warmUpP c).P c.P j) (idxSub j 12)) :=
  tableRead_forTable_tableWrite (fun j P => pUpdate P j ^^^ h1 c.Q (tableRead P (idxSub j 12))) c.P j

/-- The word pass `j` of the Q warm-up writes, from Q before that pass (R125). -/
theorem tableRead_warmUpQ_Q (c : CoreState) (j : Index) :
    tableRead (warmUpQ c).Q j =
      qUpdate (tableMidway (warmUpQ c).Q c.Q j) j ^^^
        h2 c.P (tableRead (tableMidway (warmUpQ c).Q c.Q j) (idxSub j 12)) :=
  tableRead_forTable_tableWrite (fun j Q => qUpdate Q j ^^^ h2 c.P (tableRead Q (idxSub j 12))) c.Q j

theorem warmUpP_frame (c : CoreState) : warmUpP c = { c with P := (warmUpP c).P } := rfl

theorem warmUpQ_frame (c : CoreState) : warmUpQ c = { c with Q := (warmUpQ c).Q } := rfl

/-! ### The statements -/

/-- Settles O25: each of the five steps writes its own components, and the Q warm-up leaves P. -/
theorem initializerWritesTablesAndCounterOnly : Obligations.InitializerWritesTablesAndCounterOnly :=
  fun _ _ _ => rfl

/-- Settles O23: pass `j` computes its word from P before that pass, which holds P[j] as found. -/
theorem warmUpOfPFeedsOutputsBack : Obligations.WarmUpOfPFeedsOutputsBack := by
  intro c j new
  refine ⟨?word, warmUpP_frame c⟩
  case word =>
    rw [tableRead_warmUpP_P, pUpdate]
    simp only [tableRead_tableMidway, lt_self_iff_false, if_false]
    rfl

/-- Settles O24: as for P; the order of the warm-ups is the initializer's. -/
theorem warmUpOfQFeedsOutputsBack : Obligations.WarmUpOfQFeedsOutputsBack := by
  intro c j new
  refine ⟨?word, warmUpQ_frame c, fun kw vw => ⟨?tableQ, ?tableP⟩⟩
  case word =>
    rw [tableRead_warmUpQ_Q, qUpdate]
    simp only [tableRead_tableMidway, lt_self_iff_false, if_false]
    rfl
  case tableQ => rw [initializerWritesTablesAndCounterOnly kw vw c]
  case tableP => rw [initializerWritesTablesAndCounterOnly kw vw c]

end Sys2Proof.Machine
end

section
/-! PROOF. CORE after an INIT or a RESYNC, waited for: a function of the key, the IV and the staged operands; the simulation of two
machines whose CORE differs in the staged operands alone; and the settled statements about both (R130 to R132). -/

namespace Sys2Proof.Machine

/-! ### Completion of an INIT or a RESYNC -/

/-- INIT and RESYNC run the same procedure (R128, R129). -/
theorem completeCommand_of_initializing {c : CoreState} (h : c.engine = .runInit ∨ c.engine = .runResync) :
    completeCommand c = { c with
      P := (initializeTables c.key c.iv c).P, Q := (initializeTables c.key c.iv c).Q, ctr := 0, ready := true,
      busy := false, engine := .idle } := by
  rcases completeCommand_cases c with ⟨hidle, -⟩ | ⟨-, heq⟩ | ⟨n, hgen, -⟩
  · simp [hidle] at h
  · exact heq
  · simp [hgen] at h

/-- The tables the initializer leaves do not depend on those it finds (R130). -/
theorem initializeTables_tables_congr (kw vw : Quad) (c d : CoreState) :
    (initializeTables kw vw c).P = (initializeTables kw vw d).P ∧
    (initializeTables kw vw c).Q = (initializeTables kw vw d).Q := by
  rw [initializeTables_eq kw vw c d]
  exact ⟨rfl, rfl⟩

/-- CORE initialized with `key` and `iv`, with `keyin` and `ivin` staged. -/
def initializedCore (key iv keyin ivin : Quad) : CoreState where
  P := (initializeTables key iv (CoreState.afterReset 0)).P
  Q := (initializeTables key iv (CoreState.afterReset 0)).Q
  ctr := 0
  key := key
  iv := iv
  keyin := keyin
  ivin := ivin
  kbuf := clearedKbuf
  busy := false
  keyed := true
  ready := true
  errcode := errOk
  engine := .idle

/-- What an accepted INIT comes to depends on the staged operands alone (R128, R130). -/
theorem completeCommand_acceptInit (c : CoreState) :
    completeCommand (acceptInit c) = initializedCore c.keyin c.ivin c.keyin c.ivin := by
  obtain ⟨hP, hQ⟩ := initializeTables_tables_congr c.keyin c.ivin (acceptInit c) (CoreState.afterReset 0)
  rw [completeCommand_of_initializing (.inl (acceptInit_engine c))]
  ext1 <;> simp [initializedCore, hP, hQ]

/-- What an accepted RESYNC comes to depends on the latched key and the staged operands alone (R129, R130). -/
theorem completeCommand_acceptResync {c : CoreState} (hkeyed : c.keyed = true) :
    completeCommand (acceptResync c) = initializedCore c.key c.ivin c.keyin c.ivin := by
  obtain ⟨hP, hQ⟩ := initializeTables_tables_congr c.key c.ivin (acceptResync c) (CoreState.afterReset 0)
  rw [completeCommand_of_initializing (.inr (acceptResync_engine c))]
  ext1 <;> simp [initializedCore, hP, hQ, hkeyed]

/-! ### Acceptance -/

theorem exec_init_of_not_busy {s : State} (h : s.core.busy = false) :
    exec .init s = .next (setTurns (Config.latInit s.draws) { s with core := acceptInit s.core }) := by
  simp [exec, execInit, h]

theorem exec_resync_of_keyed {s : State} (h : s.core.busy = false) (hkeyed : s.core.keyed = true) :
    exec .resync s = .next (setTurns (Config.latResync s.draws) { s with core := acceptResync s.core }) := by
  simp [exec, execResync, h, hkeyed]

/-- BUSY and READY alone decide what a NOP or a GEN does: set a code, or start the engine (R144, R145, R163, R164). -/
theorem exec_determined_by_flags {i : Instr} (hinit : i ≠ .init) (hresync : i ≠ .resync) (busy ready : Bool) :
    (∃ code, ∀ s : State, s.core.busy = busy → s.core.ready = ready → exec i s = .next (raiseCmdError code s)) ∨
    (∃ n, ∀ s : State, s.core.busy = busy → s.core.ready = ready →
      exec i s = .next (setTurns (Config.latGen (genCount n) s.draws) { s with core := startEngine (.runGen n) s.core })) := by
  cases busy with
  | true => exact .inl ⟨errBusy, fun s hb _ => exec_busy i hb⟩
  | false =>
    cases i with
    | init => exact absurd rfl hinit
    | resync => exact absurd rfl hresync
    | nop => exact .inl ⟨errOk, fun s hb _ => by simp [exec, execNop, hb, raiseCmdError]⟩
    | gen n =>
      by_cases hn : 16 < genCount n
      · exact .inl ⟨errIllegal, fun s hb _ => by simp [exec, execGen, hb, hn]⟩
      cases ready with
      | false => exact .inl ⟨errNotReady, fun s hb hr => by simp [exec, execGen, hb, hn, hr]⟩
      | true =>
        by_cases h0 : genCount n = 0
        · exact .inl ⟨errOk, fun s hb hr => by simp [exec, execGen, hb, hr, h0, acceptGen, raiseCmdError]⟩
        · exact .inr ⟨n, fun s hb hr => by simp [exec, execGen, hb, hn, hr, h0, acceptGen]⟩

/-- The same of a CMD write of any word that is neither INIT's nor RESYNC's (R161, R164). -/
theorem cmdWrite_determined_by_flags {w : Word} (hw : decode w ≠ .ok .init ∧ decode w ≠ .ok .resync) (busy ready : Bool) :
    (∃ code, ∀ s : State, s.core.busy = busy → s.core.ready = ready → cmdWrite w s = .next (raiseCmdError code s)) ∨
    (∃ n, ∀ s : State, s.core.busy = busy → s.core.ready = ready →
      cmdWrite w s =
        .next (setTurns (Config.latGen (genCount n) s.draws) { s with core := startEngine (.runGen n) s.core })) := by
  cases h : decode w with
  | error e => exact .inl ⟨if busy then errBusy else errIllegal, fun s hb _ => by simp only [cmdWrite, h, hb]⟩
  | ok i =>
    rw [h] at hw
    simpa only [cmdWrite, h] using
      exec_determined_by_flags (fun e => hw.1 (congrArg _ e)) (fun e => hw.2 (congrArg _ e)) busy ready

/-! ### Other operands staged -/

/-- CORE with other operands in KEYIN and IVIN. -/
def withStaging (keyin ivin : Quad) (c : CoreState) : CoreState := { c with keyin := keyin, ivin := ivin }

@[simp] theorem withStaging_kbuf (k v : Quad) (c : CoreState) : (withStaging k v c).kbuf = c.kbuf := rfl
@[simp] theorem withStaging_ctr (k v : Quad) (c : CoreState) : (withStaging k v c).ctr = c.ctr := rfl
@[simp] theorem withStaging_busy (k v : Quad) (c : CoreState) : (withStaging k v c).busy = c.busy := rfl
@[simp] theorem withStaging_ready (k v : Quad) (c : CoreState) : (withStaging k v c).ready = c.ready := rfl
@[simp] theorem withStaging_engine (k v : Quad) (c : CoreState) : (withStaging k v c).engine = c.engine := rfl

theorem statusWord_withStaging (k v : Quad) (c : CoreState) (x : BitVec 10) :
    statusWord (withStaging k v c) x = statusWord c x := rfl

/-- The stepper does not read the staged operands (R140 to R144). -/
theorem emit_withStaging (n : Nat) (k v : Quad) (c : CoreState) :
    emit n (withStaging k v c) = withStaging k v (emit n c) := by
  obtain ⟨hP, hQ, hctr, hkbuf⟩ := emit_agree n (c := withStaging k v c) (d := c) rfl rfl rfl rfl
  calc emit n (withStaging k v c)
      = { withStaging k v c with
          P := (emit n c).P, Q := (emit n c).Q, ctr := (emit n c).ctr, kbuf := (emit n c).kbuf } := by
        rw [emit_frame, hP, hQ, hctr, hkbuf]
    _ = withStaging k v (emit n c) := by rw [emit_frame n c]; rfl

/-- A running command has latched its operands, so its completion does not read the staged ones (R24, R25). -/
theorem completeCommand_withStaging (k v : Quad) (c : CoreState) :
    completeCommand (withStaging k v c) = withStaging k v (completeCommand c) := by
  simp only [completeCommand, withStaging_engine]
  cases c.engine with
  | idle => rfl
  | runInit => rfl
  | runResync => rfl
  | runGen n => exact congrArg stopEngine (emit_withStaging (genCount n) k v c)

/-- A CMD write that latches no operands does the same to two machines whose CORE differs in the staged operands alone. -/
theorem cmdWrite_withStaging {w : Word} (hw : decode w ≠ .ok .init ∧ decode w ≠ .ok .resync) {k v : Quad} {s t : State}
    (h : t.core = withStaging k v s.core) :
    ∃ s' t', cmdWrite w s = .next s' ∧ cmdWrite w t = .next t' ∧ t'.core = withStaging k v s'.core := by
  have hbusy : t.core.busy = s.core.busy := by rw [h, withStaging_busy]
  have hready : t.core.ready = s.core.ready := by rw [h, withStaging_ready]
  rcases cmdWrite_determined_by_flags hw s.core.busy s.core.ready with ⟨code, hcode⟩ | ⟨n, hstart⟩
  · exact ⟨_, _, hcode s rfl rfl, hcode t hbusy hready, by rw [raiseCmdError_core, h]; rfl⟩
  · exact ⟨_, _, hstart s rfl rfl, hstart t hbusy hready, by rw [setTurns_core, h]; rfl⟩

/-- The same over any number of such writes, each waited for. -/
theorem cmdSequence_withStaging {ws : List Word} (hws : ∀ w ∈ ws, decode w ≠ .ok .init ∧ decode w ≠ .ok .resync)
    {k v : Quad} {s t : State} (h : t.core = withStaging k v s.core) :
    (cmdSequence ws t).core = withStaging k v (cmdSequence ws s).core := by
  induction ws generalizing s t with
  | nil => exact h
  | cons w ws ih =>
    obtain ⟨hw, hrest⟩ := List.forall_mem_cons.mp hws
    obtain ⟨s', t', hs, ht, hcore⟩ := cmdWrite_withStaging hw h
    rw [cmdSequence, cmdSequence, hs, ht]
    exact ih hrest (by rw [engineTurn_core, engineTurn_core, hcore, completeCommand_withStaging])

/-! ### The statements -/

/-- Settles O26: the initializer's tables depend on its key and IV alone, and CTR is 0. -/
theorem initializationDependsOnKeyAndIvAlone : Obligations.InitializationDependsOnKeyAndIvAlone := by
  intro c d hc hd hkey hiv
  rw [completeCommand_of_initializing hc, completeCommand_of_initializing hd, hkey, hiv]
  obtain ⟨hP, hQ⟩ := initializeTables_tables_congr d.key d.iv c d
  exact ⟨hP, hQ, rfl⟩

/-- Settles O27: the RESYNC and the INIT come to the same CORE but for the staged operands, which the words that follow never latch. -/
theorem resyncEqualsFreshInit : Obligations.ResyncEqualsFreshInit := by
  intro s1 s2 hbusy1 hkeyed hbusy2 hkey hiv
  refine ⟨_, _, exec_resync_of_keyed hbusy1 hkeyed, exec_init_of_not_busy hbusy2, fun ws hws => ?_⟩
  have hcore : completeCommand (acceptInit s2.core) =
      withStaging s2.core.keyin s2.core.ivin (completeCommand (acceptResync s1.core)) := by
    rw [completeCommand_acceptInit, completeCommand_acceptResync hkeyed, hkey, hiv]
    rfl
  have hsim := cmdSequence_withStaging hws
    (s := engineTurn (setTurns (Config.latResync s1.draws) { s1 with core := acceptResync s1.core }))
    (t := engineTurn (setTurns (Config.latInit s2.draws) { s2 with core := acceptInit s2.core })) hcore
  simp only [hsim, withStaging_kbuf, withStaging_ctr, statusWord_withStaging, and_self]

/-- Settles O28: both INITs come to the same CORE. -/
theorem sameKeyAndIvSameKeystream : Obligations.SameKeyAndIvSameKeystream := by
  intro s1 s2 hbusy1 hbusy2 hkey hiv
  refine ⟨_, _, exec_init_of_not_busy hbusy1, exec_init_of_not_busy hbusy2, fun t => ?_⟩
  rw [setTurns_core, setTurns_core, completeCommand_acceptInit, completeCommand_acceptInit, hkey, hiv]

end Sys2Proof.Machine
end

section
/-! PROOF. What one step of the stepper writes to P, Q and KBUF, by its phase, and the settled statements about a step and about
CTR along a run of steps (R140 to R143, R147). -/

namespace Sys2Proof.Machine

/-! ### A step, by its phase -/

theorem keystreamStep_of_pPhase {c : CoreState} (h : qPhase c.ctr = false) :
    keystreamStep c = advanceCtr (pStep c (stepIndex c.ctr)) := by
  rcases keystreamStep_cases c with ⟨-, heq⟩ | ⟨hq, -⟩
  · exact heq
  · exact absurd (h.symm.trans hq) Bool.false_ne_true

theorem keystreamStep_of_qPhase {c : CoreState} (h : qPhase c.ctr = true) :
    keystreamStep c = advanceCtr (qStep c (stepIndex c.ctr)) := by
  rcases keystreamStep_cases c with ⟨hp, -⟩ | ⟨-, heq⟩
  · exact absurd (hp.symm.trans h) Bool.false_ne_true
  · exact heq

/-! ### The tables -/

@[simp] theorem pStep_P (c : CoreState) (j : Index) : (pStep c j).P = tableWrite c.P j (pUpdate c.P j) := rfl
@[simp] theorem pStep_Q (c : CoreState) (j : Index) : (pStep c j).Q = c.Q := rfl
@[simp] theorem qStep_P (c : CoreState) (j : Index) : (qStep c j).P = c.P := rfl
@[simp] theorem qStep_Q (c : CoreState) (j : Index) : (qStep c j).Q = tableWrite c.Q j (qUpdate c.Q j) := rfl

/-- A P-step writes only P (R147). -/
theorem keystreamStep_Q_of_pPhase {c : CoreState} (h : qPhase c.ctr = false) : (keystreamStep c).Q = c.Q := by
  rw [keystreamStep_of_pPhase h, advanceCtr_Q, pStep_Q]

/-- A Q-step writes only Q (R147). -/
theorem keystreamStep_P_of_qPhase {c : CoreState} (h : qPhase c.ctr = true) : (keystreamStep c).P = c.P := by
  rw [keystreamStep_of_qPhase h, advanceCtr_P, qStep_P]

/-! ### The emitted word -/

/-- The word of a P-step: the write to P[j] comes first and is the second operand, but P[j ⊟ 12] is another word (R62). -/
theorem pOutput_tableWrite (P Q : Table) (j : Index) (v : Word) :
    pOutput (tableWrite P j v) Q j = h1 Q (tableRead P (idxSub j 12)) ^^^ v := by
  rw [pOutput, tableRead_tableWrite_same, tableRead_tableWrite_ne P v (idxSub_ne j (by decide))]

/-- The word of a Q-step, likewise. -/
theorem qOutput_tableWrite (P Q : Table) (j : Index) (v : Word) :
    qOutput P (tableWrite Q j v) j = h2 P (tableRead Q (idxSub j 12)) ^^^ v := by
  rw [qOutput, tableRead_tableWrite_same, tableRead_tableWrite_ne Q v (idxSub_ne j (by decide))]

theorem pStep_kbuf (c : CoreState) (j : Index) :
    (pStep c j).kbuf = (emitWord c (h1 c.Q (tableRead c.P (idxSub j 12)) ^^^ pUpdate c.P j)).kbuf := by
  rw [← pOutput_tableWrite]; rfl

theorem qStep_kbuf (c : CoreState) (j : Index) :
    (qStep c j).kbuf = (emitWord c (h2 c.P (tableRead c.Q (idxSub j 12)) ^^^ qUpdate c.Q j)).kbuf := by
  rw [← qOutput_tableWrite]; rfl

/-- In either phase a step does to KBUF what the emission of one word does (R143). -/
theorem keystreamStep_kbuf (c : CoreState) : ∃ w, (keystreamStep c).kbuf = (emitWord c w).kbuf := by
  rcases keystreamStep_cases c with ⟨-, h⟩ | ⟨-, h⟩
  · exact ⟨_, by rw [h, advanceCtr_kbuf, pStep_kbuf]⟩
  · exact ⟨_, by rw [h, advanceCtr_kbuf, qStep_kbuf]⟩

/-! ### The counter along a run -/

/-- From CTR = 0, CTR counts the steps modulo 1024 (R147). -/
theorem emit_ctr_toNat_of_ctr_zero {c : CoreState} (h : c.ctr = 0#10) (t : Nat) :
    (emit t c).ctr.toNat = t % 1024 := by
  rw [emit_ctr, h, BitVec.zero_add, BitVec.toNat_ofNat]

/-! ### The statements -/

/-- Settles O29: in the P-phase the step is the one write of P and the emission of its word. -/
theorem pStepUpdatesOneWordOfP : Obligations.PStepUpdatesOneWordOfP := by
  intro c hphase j d
  have hd : d = advanceCtr (pStep c j) := keystreamStep_of_pPhase hphase
  have hP : d.P = tableWrite c.P j (pUpdate c.P j) := by rw [hd, advanceCtr_P, pStep_P]
  have hnew : tableRead d.P j = pUpdate c.P j := by rw [hP, tableRead_tableWrite_same]
  refine ⟨stepIndex_val c.ctr, hnew, fun k hk => ?others, keystreamStep_Q_of_pPhase hphase, ?emitted⟩
  case others => rw [hP, tableRead_tableWrite_ne c.P _ hk]
  case emitted => rw [hnew, hd, advanceCtr_kbuf, pStep_kbuf, emitWord_kbuf_same]

/-- Settles O30: in the Q-phase the step is the one write of Q and the emission of its word. -/
theorem qStepUpdatesOneWordOfQ : Obligations.QStepUpdatesOneWordOfQ := by
  intro c hphase j d
  have hd : d = advanceCtr (qStep c j) := keystreamStep_of_qPhase hphase
  have hQ : d.Q = tableWrite c.Q j (qUpdate c.Q j) := by rw [hd, advanceCtr_Q, qStep_Q]
  have hnew : tableRead d.Q j = qUpdate c.Q j := by rw [hQ, tableRead_tableWrite_same]
  refine ⟨?index, hnew, fun k hk => ?others, keystreamStep_P_of_qPhase hphase, ?emitted⟩
  case index =>
    have hhigh : 512 ≤ c.ctr.toNat := of_decide_eq_true ((qPhase_eq c.ctr).symm.trans hphase)
    have := stepIndex_val c.ctr
    omega
  case others => rw [hQ, tableRead_tableWrite_ne c.Q _ hk]
  case emitted => rw [hnew, hd, advanceCtr_kbuf, qStep_kbuf, emitWord_kbuf_same]

/-- Settles O31: the counter's value, the one emission of either phase, and the frame of a step. -/
theorem stepAdvancesCounterAndWritesOneKbufWord : Obligations.StepAdvancesCounterAndWritesOneKbufWord := by
  intro c d
  refine ⟨?counter, kbufIndex_val c.ctr, fun k hk => ?kbuf, ?frame⟩
  case counter => rw [keystreamStep_ctr, nextCtr_toNat]
  case kbuf =>
    obtain ⟨w, hw⟩ := keystreamStep_kbuf c
    rw [hw, emitWord_kbuf_ne c w hk]
  case frame =>
    rw [keystreamStep_ctr]
    exact keystreamStep_frame c

/-- Settles O33: CTR after t steps is t mod 1024, whose bit 9 is the phase of the next step. -/
theorem counterCountsWordsAndPhasesAlternate : Obligations.CounterCountsWordsAndPhasesAlternate := by
  intro c t hctr
  have hcount := emit_ctr_toNat_of_ctr_zero hctr t
  have hphase : qPhase (emit t c).ctr = decide (512 ≤ t % 1024) := by rw [qPhase_eq, hcount]
  refine ⟨hcount, fun hlow => ?writesOnlyP, fun hhigh => ?writesOnlyQ⟩
  case writesOnlyP =>
    rw [emit_succ, keystreamStep_Q_of_pPhase (hphase.trans (decide_eq_false hlow.not_ge))]
  case writesOnlyQ =>
    rw [emit_succ, keystreamStep_P_of_qPhase (hphase.trans (decide_eq_true hhigh))]

end Sys2Proof.Machine
end

section
/-! PROOF. The checks of a CMD write in the order of R167: what each rejects, what passes them all, that the running command is
blind to ERRCODE, and the settled statements about the rejections (R162 to R165, R167). -/

namespace Sys2Proof.Machine

/-! ### The running command and ERRCODE -/

/-- The stepper does not read ERRCODE (R140 to R144). -/
theorem emit_set_errcode (n : Nat) (code : BitVec 3) (c : CoreState) :
    emit n { c with errcode := code } = { emit n c with errcode := code } := by
  obtain ⟨hP, hQ, hctr, hkbuf⟩ := emit_agree n (c := { c with errcode := code }) (d := c) rfl rfl rfl rfl
  rw [emit_frame, hP, hQ, hctr, hkbuf, emit_frame n c]

theorem completeCommand_of_runGen {n : BitVec 5} {c : CoreState} (h : c.engine = .runGen n) :
    completeCommand c = completeGen n c := by
  simp only [completeCommand, h]

/-- A running command completes as it would have with another ERRCODE (R164, R166). -/
theorem completeCommand_set_errcode (code : BitVec 3) (c : CoreState) :
    completeCommand { c with errcode := code } = { completeCommand c with errcode := code } := by
  rcases completeCommand_cases c with ⟨hidle, heq⟩ | ⟨hinit, heq⟩ | ⟨n, hgen, -⟩
  · rw [heq]
    exact completeCommand_idle (c := { c with errcode := code }) hidle
  · rw [heq]
    exact completeCommand_of_initializing (c := { c with errcode := code }) hinit
  · rw [completeCommand_of_runGen hgen, completeCommand_of_runGen (c := { c with errcode := code }) hgen]
    exact congrArg stopEngine (emit_set_errcode (genCount n) code c)

/-! ### Rejections -/

/-- While a command runs the word does not matter, legal or illegal (R164, R167). -/
theorem cmdWrite_of_busy (w : Word) {s : State} (h : s.core.busy = true) :
    cmdWrite w s = .next (raiseCmdError errBusy s) := by
  rcases cmdWrite_cases w s with ⟨e, -, hw⟩ | ⟨i, -, hw⟩
  · rw [hw, if_pos h]
  · rw [hw, exec_busy i h]

theorem exec_resync_of_not_keyed {s : State} (hbusy : s.core.busy = false) (hkeyed : s.core.keyed = false) :
    exec .resync s = .next (raiseCmdError errNoKey s) := by
  simp [exec, execResync, hbusy, hkeyed]

/-- READY is checked before count 0 is set apart, so GEN 0 is rejected as well (R163). -/
theorem exec_gen_of_not_ready {n : BitVec 5} {s : State} (hn : n.toNat ≤ 16) (hbusy : s.core.busy = false)
    (hready : s.core.ready = false) : exec (.gen n) s = .next (raiseCmdError errNotReady s) := by
  have hlegal : ¬ 16 < genCount n := Nat.not_lt.mpr hn
  simp [exec, execGen, hbusy, hlegal, hready]

/-- A rejection leaves a nonzero code and every acceptance leaves code 0 (R165, R166). -/
theorem exec_of_errcode_ne_zero {i : Instr} {s t : State} (h : exec i s = .next t) (hcode : t.core.errcode ≠ 0#3) :
    t = raiseCmdError t.core.errcode s := by
  rcases exec_cases i s with ⟨code, -, -, hr⟩ | ⟨-, -, ha⟩ | ⟨-, -, ha⟩ | ⟨-, -, -, ha⟩ | ⟨n, -, -, -, -, -, ha⟩
  case inl =>
    obtain rfl := Host.Outcome.next.inj (hr.symm.trans h)
    rfl
  all_goals
    obtain rfl := Host.Outcome.next.inj (ha.symm.trans h)
    exact absurd rfl hcode

/-- The same of a CMD write of any word: an illegal word is rejected, a legal one has its command's meaning (R36, R165). -/
theorem cmdWrite_of_errcode_ne_zero {w : Word} {s t : State} (h : cmdWrite w s = .next t) (hcode : t.core.errcode ≠ 0#3) :
    t = raiseCmdError t.core.errcode s := by
  rcases cmdWrite_cases w s with ⟨e, -, hw⟩ | ⟨i, -, hw⟩
  · obtain rfl := Host.Outcome.next.inj (hw.symm.trans h)
    rfl
  · exact exec_of_errcode_ne_zero (hw.symm.trans h) hcode

/-! ### The write of a legal word -/

/-- A word with no ground of R83 is the word of a legal command. -/
theorem exists_encode_of_not_illegalWord {w : Word} (h : ¬ illegalWord w) :
    ∃ i : Instr, i.wellFormed = true ∧ encode i = w := by
  rcases decode_cases w with ⟨i, hwf, henc, -⟩ | ⟨hill, -⟩
  · exact ⟨i, hwf, henc⟩
  · exact absurd hill h

/-- The write of a legal command's word is that command's meaning (R36). -/
theorem cmdWrite_encode {i : Instr} (hwf : i.wellFormed = true) (s : State) : cmdWrite (encode i) s = exec i s := by
  rw [cmdWrite, decode_encode hwf]

/-- Operation code 2 is RESYNC's alone (R81). -/
theorem opField_encode_eq_two_iff (i : Instr) : opField (encode i) = 2#4 ↔ i = .resync := by
  cases i with
  | nop | init | resync => decide
  | gen n => simp

/-- Operation code 3 is GEN's alone (R81). -/
theorem opField_encode_eq_three_iff (i : Instr) : opField (encode i) = 3#4 ↔ ∃ n, i = .gen n := by
  cases i with
  | nop | init | resync => exact iff_of_false (by decide) (fun ⟨_, h⟩ => nomatch h)
  | gen n => simp

/-! ### Acceptance -/

theorem exec_nop_of_not_busy {s : State} (h : s.core.busy = false) : exec .nop s = .next (raiseCmdError errOk s) := by
  simp [exec, execNop, h, raiseCmdError]

/-- An accepted GEN, of count 0 or above (R144). -/
theorem exec_gen_of_ready {n : BitVec 5} {s : State} (hn : n.toNat ≤ 16) (hbusy : s.core.busy = false)
    (hready : s.core.ready = true) :
    exec (.gen n) s = if genCount n = 0 then .next (raiseCmdError errOk s) else
      .next (setTurns (Config.latGen (genCount n) s.draws) { s with core := startEngine (.runGen n) s.core }) := by
  have hlegal : ¬ 16 < genCount n := Nat.not_lt.mpr hn
  by_cases h0 : genCount n = 0
  · simp [exec, execGen, hbusy, hready, h0, acceptGen, raiseCmdError]
  · simp [exec, execGen, hbusy, hlegal, hready, h0, acceptGen]

/-- A legal command that no check rejects is accepted, and ERRCODE is then OK (R166, R167). -/
theorem exec_of_checks_pass {i : Instr} {s : State} (hwf : i.wellFormed = true) (hbusy : s.core.busy = false)
    (hkeyed : i = .resync → s.core.keyed = true) (hready : (∃ n, i = .gen n) → s.core.ready = true) :
    ∃ t, exec i s = .next t ∧ t.core.errcode = 0#3 := by
  cases i with
  | nop => exact ⟨_, exec_nop_of_not_busy hbusy, rfl⟩
  | init => exact ⟨_, exec_init_of_not_busy hbusy, rfl⟩
  | resync => exact ⟨_, exec_resync_of_keyed hbusy (hkeyed rfl), rfl⟩
  | gen n =>
    rw [exec_gen_of_ready (of_decide_eq_true hwf) hbusy (hready ⟨n, rfl⟩)]
    split <;> exact ⟨_, rfl, rfl⟩

/-! ### The statements -/

/-- Settles O10: BUSY is the first check, and completion carries ERRCODE along unread. -/
theorem busyRejectsEveryCmdWrite : Obligations.BusyRejectsEveryCmdWrite := fun s w hbusy =>
  ⟨cmdWrite_of_busy w hbusy, completeCommand_set_errcode 4#3 s.core⟩

/-- Settles O13: every CMD write goes on, and a nonzero code is a rejection's. -/
theorem rejectedWriteSetsErrcodeOnly : Obligations.RejectedWriteSetsErrcodeOnly := by
  intro s w
  obtain ⟨t, h⟩ := cmdWrite_next w s
  exact ⟨t, h, cmdWrite_of_errcode_ne_zero h⟩

/-- Settles O14: a legal word is some command's, and its OP field says which of the remaining checks apply to it. -/
theorem cmdWriteChecksInOrder : Obligations.CmdWriteChecksInOrder := by
  intro s w
  refine ⟨cmdWrite_of_busy w, fun hbusy hill => ?illegal, fun hbusy hlegal hop hkeyed => ?noKey,
    fun hbusy hlegal hop hready => ?notReady, fun hbusy hlegal hkeyed hready => ?accepted⟩
  case illegal =>
    rw [cmdWrite_of_illegalWord hill, hbusy]
    rfl
  all_goals obtain ⟨i, hwf, rfl⟩ := exists_encode_of_not_illegalWord hlegal
  case noKey =>
    obtain rfl := (opField_encode_eq_two_iff i).mp hop
    exact (cmdWrite_encode hwf s).trans (exec_resync_of_not_keyed hbusy hkeyed)
  case notReady =>
    obtain ⟨n, rfl⟩ := (opField_encode_eq_three_iff i).mp hop
    exact (cmdWrite_encode hwf s).trans (exec_gen_of_not_ready (of_decide_eq_true hwf) hbusy hready)
  case accepted =>
    obtain ⟨t, hexec, hcode⟩ := exec_of_checks_pass hwf hbusy
      (fun h => hkeyed ((opField_encode_eq_two_iff i).mpr h)) (fun h => hready ((opField_encode_eq_three_iff i).mpr h))
    exact ⟨i, t, decode_encode hwf, hexec, (cmdWrite_encode hwf s).trans hexec, hcode⟩

/-- Settles O11: the word 2 is RESYNC's, so its write is the command's rejection. -/
theorem resyncWithoutKeyIsRejected : Obligations.ResyncWithoutKeyIsRejected := fun s hbusy hkeyed =>
  have hexec := exec_resync_of_not_keyed hbusy hkeyed
  ⟨hexec, (cmdWrite_encode (i := .resync) rfl s).trans hexec⟩

/-- Settles O12: the word 3 + 16 n is GEN n's, so its write is the command's rejection. -/
theorem genBeforeReadyIsRejected : Obligations.GenBeforeReadyIsRejected := by
  intro s n hbusy hready hn
  have hexec := exec_gen_of_not_ready hn hbusy hready
  rw [← encode_gen_eq_add, cmdWrite_encode (i := .gen n) (decide_eq_true hn)]
  exact ⟨hexec, hexec⟩

end Sys2Proof.Machine
end

section
/-! PROOF. The decoder and the encoder as inverses (R80 to R84), index subtraction (R9, R62), and the byte order of keys, IVs and
keystream words (R63 to R65): the settled statements about words. -/

namespace Sys2Proof.Machine

/-! ### Bytes and words -/

/-- A word's bytes weigh 1, 2^8, 2^16 and 2^24 (R10). -/
theorem le32_toNat (b0 b1 b2 b3 : Byte) :
    (le32 b0 b1 b2 b3).toNat = b0.toNat + 2 ^ 8 * b1.toNat + 2 ^ 16 * b2.toNat + 2 ^ 24 * b3.toNat := by
  have happend : ∀ {m : Nat} (x : BitVec m) (b : Byte), (x ++ b).toNat = x.toNat * 2 ^ 8 + b.toNat := fun x b => by
    rw [BitVec.toNat_append, ← Nat.shiftLeft_add_eq_or_of_lt b.isLt, Nat.shiftLeft_eq]
  rw [le32, happend, happend, happend]
  omega

theorem byteOf_toNat (v : Word) (k : Fin 4) : (byteOf v k).toNat = v.toNat / 2 ^ (8 * k.val) % 2 ^ 8 := by
  rw [byteOf, BitVec.extractLsb'_toNat, Nat.shiftRight_eq_div_pow]

/-- The bytes of a packed word are the bytes it was packed from, in their order (R65). -/
theorem keystreamBytes_le32 (b0 b1 b2 b3 : Byte) : keystreamBytes (le32 b0 b1 b2 b3) = [b0, b1, b2, b3] := by
  have h0 := b0.isLt
  have h1 := b1.isLt
  have h2 := b2.isLt
  have h3 := b3.isLt
  have hbyte : ∀ (k : Fin 4) (b : Byte), (b0.toNat + 2 ^ 8 * b1.toNat + 2 ^ 16 * b2.toNat + 2 ^ 24 * b3.toNat) /
      2 ^ (8 * k.val) % 2 ^ 8 = b.toNat → byteOf (le32 b0 b1 b2 b3) k = b := fun k b h =>
    BitVec.eq_of_toNat_eq (by rw [byteOf_toNat, le32_toNat, h])
  rw [keystreamBytes, hbyte 0 b0 (by simp; omega), hbyte 1 b1 (by simp; omega), hbyte 2 b2 (by simp; omega),
    hbyte 3 b3 (by simp; omega)]

/-- Word i of a key or an IV packs bytes 4i to 4i + 3 (R63, R64). -/
theorem packQuad_word (b : Vector Byte 16) (i : Fin 4) :
    (packQuad b)[i] = le32 b[4 * i.val] b[4 * i.val + 1] b[4 * i.val + 2] b[4 * i.val + 3] :=
  Vector.getElem_ofFn i.isLt

/-! ### The statements -/

/-- Settles O1: the decoder's two answers are a legal command, whose word this is, or an error. -/
theorem decodeInvertsEncode : Obligations.DecodeInvertsEncode := decode_eq_ok_iff

/-- Settles O4: the legal words are the words of their commands, and the others stand on one ground each. -/
theorem sampleWordsDecode : Obligations.SampleWordsDecode :=
  ⟨decode_encode (i := .nop) rfl, decode_encode (i := .init) rfl, decode_encode (i := .resync) rfl,
    decode_encode (i := .gen 0) rfl, decode_encode (i := .gen 15) rfl, decode_encode (i := .gen 16) rfl,
    decode_of_op_eq_three rfl rfl, decode_of_three_lt_op rfl (by decide), rfl, rfl⟩

/-- Settles O19: subtraction in integers, and a nonzero offset leads to another word. -/
theorem stepOffsetsWrapAndAvoidTheUpdatedWord : Obligations.StepOffsetsWrapAndAvoidTheUpdatedWord :=
  ⟨idxSub_val, fun j => ⟨idxSub_ne j (by decide), idxSub_ne j (by decide), idxSub_ne j (by decide), idxSub_ne j (by decide)⟩⟩

/-- Settles O20: the weights of LE32, which say what each byte of a packed word is. -/
theorem byteOrderIsLittleEndian : Obligations.ByteOrderIsLittleEndian :=
  ⟨le32_toNat, fun b i => by rw [packQuad_word, keystreamBytes_le32]⟩

end Sys2Proof.Machine
end

section
/-! PROOF. The accepted commands from their CMD write to their completion, and the settled statements about NOP (R145), INIT (R128),
RESYNC (R129) and GEN (R144). -/

namespace Sys2Proof.Machine

/-! ### Completion -/

/-- Completion does not write ERRCODE (R166). -/
@[simp] theorem completeCommand_errcode (c : CoreState) : (completeCommand c).errcode = c.errcode := by
  rcases completeCommand_cases c with ⟨-, h⟩ | ⟨-, h⟩ | ⟨n, -, h⟩ <;> rw [h]

/-- A completed command has released CORE (R128, R129, R144). -/
theorem completeCommand_busy {c : CoreState} (h : c.engine ≠ .idle) : (completeCommand c).busy = false := by
  rcases completeCommand_cases c with ⟨hidle, -⟩ | ⟨-, heq⟩ | ⟨n, -, heq⟩
  · exact absurd hidle h
  · rw [heq]
  · rw [heq]

/-- The stepper reads neither ERRCODE nor BUSY nor the engine state (R140 to R144). -/
theorem emit_startEngine (n : Nat) (e : Engine) (c : CoreState) :
    emit n (startEngine e c) = startEngine e (emit n c) := by
  obtain ⟨hP, hQ, hctr, hkbuf⟩ := emit_agree n (c := startEngine e c) (d := c) rfl rfl rfl rfl
  rw [emit_frame, hP, hQ, hctr, hkbuf, emit_frame n c]
  rfl

/-- From its acceptance to its completion a GEN takes its steps, clears ERRCODE, and leaves CORE idle (R144). -/
theorem completeCommand_startEngine_runGen (n : BitVec 5) (c : CoreState) :
    completeCommand (startEngine (.runGen n) c) =
      { emit n.toNat c with errcode := errOk, busy := false, engine := .idle } := by
  rw [completeCommand_of_runGen (startEngine_engine _ c), completeGen, genCount, emit_startEngine]
  rfl

/-! ### The statements -/

/-- Settles O5: a NOP that finds CORE not busy writes code 0. -/
theorem nopClearsErrcodeOnly : Obligations.NopClearsErrcodeOnly := fun _ hbusy => exec_nop_of_not_busy hbusy

/-- Settles O6: the acceptance by its rule, the completion by the run that INIT and RESYNC share. -/
theorem initIsAcceptedAndCompletes : Obligations.InitIsAcceptedAndCompletes := by
  intro s hbusy c
  refine ⟨exec_init_of_not_busy hbusy, ?completes⟩
  obtain ⟨hP, hQ⟩ := initializeTables_tables_congr s.core.keyin s.core.ivin s.core c
  rw [completeCommand_of_initializing (c := c) (.inl rfl), hP, hQ]
  rfl

/-- Settles O7: as INIT's, with KEY as it was latched before. -/
theorem resyncIsAcceptedAndCompletes : Obligations.ResyncIsAcceptedAndCompletes := by
  intro s hbusy hkeyed c
  refine ⟨exec_resync_of_keyed hbusy hkeyed, ?completes⟩
  obtain ⟨hP, hQ⟩ := initializeTables_tables_congr s.core.key s.core.ivin s.core c
  rw [completeCommand_of_initializing (c := c) (.inr rfl), hP, hQ]
  rfl

/-- Settles O8: the acceptance by its rule; the n steps write P, Q, CTR and KBUF alone. -/
theorem genIsAcceptedAndCompletes : Obligations.GenIsAcceptedAndCompletes := by
  intro s n hbusy hready hpos hle c
  refine ⟨?accepted, ?completes⟩
  case accepted =>
    have hcount : genCount n ≠ 0 := Nat.one_le_iff_ne_zero.mp hpos
    rw [exec_gen_of_ready hle hbusy hready, if_neg hcount]
    rfl
  case completes =>
    calc completeCommand c
        = { emit n.toNat s.core with errcode := errOk, busy := false, engine := .idle } :=
          completeCommand_startEngine_runGen n s.core
      _ = _ := by rw [emit_frame, emit_ctr]; rfl

/-- Settles O9: a GEN of count 0 writes code 0 and starts nothing. -/
theorem genZeroClearsErrcodeOnly : Obligations.GenZeroClearsErrcodeOnly := fun _ hbusy hready =>
  exec_gen_of_ready (n := 0) (by decide) hbusy hready

end Sys2Proof.Machine
end

section
/-! PROOF. The keystream over many steps and many commands: which word KBUF holds at a position (R143, R187), that a list of waited-for
CMD writes emits what one run emits (R146), and the settled statements about both. -/

namespace Sys2Proof.Machine

/-! ### KBUF -/

/-- Word t goes to KBUF[t mod 16] (R143, R147). -/
theorem kbufIndex_emit {c : CoreState} (h : c.ctr = 0#10) (t : Nat) : (kbufIndex (emit t c).ctr).val = t % 16 := by
  rw [kbufIndex_val, emit_ctr_toNat_of_ctr_zero h]
  omega

/-- A step leaves every word of KBUF but the one at its own position. -/
theorem keystreamStep_kbuf_ne (c : CoreState) {k : Fin 16} (h : k ≠ kbufIndex c.ctr) :
    (keystreamStep c).kbuf[k] = c.kbuf[k] := by
  obtain ⟨w, hw⟩ := keystreamStep_kbuf c
  rw [hw, emitWord_kbuf_ne c w h]

/-- Up to 15 further steps write other positions than the one word t went to (R187). -/
theorem emit_kbuf_kept {c : CoreState} (h : c.ctr = 0#10) (t : Nat) {k : Nat} (hk : k ≤ 15) :
    (emit (t + 1 + k) c).kbuf[kbufIndex (emit t c).ctr] = keystreamWord c t := by
  induction k with
  | zero => rw [Nat.add_zero, emit_succ]; rfl
  | succ k ih =>
    have hne : kbufIndex (emit t c).ctr ≠ kbufIndex (emit (t + 1 + k) c).ctr := fun heq => by
      have hpos := congrArg Fin.val heq
      rw [kbufIndex_emit h, kbufIndex_emit h] at hpos
      omega
    rw [← Nat.add_assoc, emit_succ, keystreamStep_kbuf_ne _ hne, ih (by omega)]

/-! ### Waited-for CMD writes -/

@[simp] theorem emit_busy (n : Nat) (c : CoreState) : (emit n c).busy = c.busy := by rw [emit_frame]
@[simp] theorem emit_ready (n : Nat) (c : CoreState) : (emit n c).ready = c.ready := by rw [emit_frame]
@[simp] theorem emit_engine (n : Nat) (c : CoreState) : (emit n c).engine = c.engine := by rw [emit_frame]

/-- With the engine idle, a write that only sets a code leaves nothing to complete. -/
theorem engineTurn_raiseCmdError_core {s : State} (h : s.core.engine = .idle) (code : BitVec 3) :
    (engineTurn (raiseCmdError code s)).core = { s.core with errcode := code } :=
  completeCommand_idle (c := { s.core with errcode := code }) h

/-- A waited-for CMD write that starts no initialization takes the steps it asks for, and but for ERRCODE no more (R144 to R146). -/
theorem engineTurn_cmdWrite_core {w : Word} (hw : decode w ≠ .ok .init ∧ decode w ≠ .ok .resync) {s : State}
    (hidle : s.core.engine = .idle) (hbusy : s.core.busy = false) (hready : s.core.ready = true) :
    ∃ t code, cmdWrite w s = .next t ∧ (engineTurn t).core = { emit (wordsAskedFor w) s.core with errcode := code } := by
  cases hdec : decode w with
  | error e =>
    have hill : illegalWord w := (decode_error_iff_illegalWord w).mp ⟨e, hdec⟩
    refine ⟨_, if s.core.busy then errBusy else errIllegal, cmdWrite_of_illegalWord hill s, ?_⟩
    rw [engineTurn_raiseCmdError_core hidle, wordsAskedFor, hdec, emit]
  | ok i =>
    have hexec : cmdWrite w s = exec i s := by rw [cmdWrite, hdec]
    cases i with
    | init => exact absurd hdec hw.1
    | resync => exact absurd hdec hw.2
    | nop =>
      refine ⟨_, errOk, hexec.trans (exec_nop_of_not_busy hbusy), ?_⟩
      rw [engineTurn_raiseCmdError_core hidle, wordsAskedFor, hdec, emit]
    | gen n =>
      have hasked : wordsAskedFor w = n.toNat := by rw [wordsAskedFor, hdec]
      have hle : n.toNat ≤ 16 := of_decide_eq_true ((decode_eq_ok_iff w _).mp hdec).1
      rw [exec_gen_of_ready hle hbusy hready] at hexec
      by_cases h0 : n.toNat = 0
      · refine ⟨_, errOk, hexec.trans (if_pos h0), ?_⟩
        rw [engineTurn_raiseCmdError_core hidle, hasked, h0, emit]
      · refine ⟨_, errOk, hexec.trans (if_neg h0), ?_⟩
        rw [engineTurn_core, setTurns_core, completeCommand_startEngine_runGen, hasked]
        ext1 <;> simp [hidle, hbusy]

/-- The same over any number of such writes, each waited for. -/
theorem cmdSequence_core {ws : List Word} (hws : ∀ w ∈ ws, decode w ≠ .ok .init ∧ decode w ≠ .ok .resync) {s : State}
    (hidle : s.core.engine = .idle) (hbusy : s.core.busy = false) (hready : s.core.ready = true) :
    ∃ code, (cmdSequence ws s).core = { emit (ws.map wordsAskedFor).sum s.core with errcode := code } := by
  induction ws generalizing s with
  | nil => exact ⟨s.core.errcode, rfl⟩
  | cons w ws ih =>
    obtain ⟨hw, hrest⟩ := List.forall_mem_cons.mp hws
    obtain ⟨t, code, hnext, hcore⟩ := engineTurn_cmdWrite_core hw hidle hbusy hready
    obtain ⟨code', hseq⟩ := ih hrest (s := engineTurn t) (by rw [hcore]; simpa using hidle)
      (by rw [hcore]; simpa using hbusy) (by rw [hcore]; simpa using hready)
    refine ⟨code', ?_⟩
    rw [cmdSequence, hnext, hseq, hcore, emit_set_errcode, List.map_cons, List.sum_cons, emit_add]

/-! ### The statements -/

/-- Settles O32: m is at most 15 steps past the step of word t. -/
theorem kbufHoldsTheSixteenMostRecentWords : Obligations.KbufHoldsTheSixteenMostRecentWords := by
  intro c t m hctr hlt hle
  obtain ⟨k, rfl⟩ := Nat.exists_eq_add_of_le (Nat.succ_le_of_lt hlt)
  rw [← emit_kbuf_kept hctr t (k := k) (by omega)]
  simp only [← kbufIndex_emit hctr t]
  rfl

/-- Settles O34: each write adds its steps to the run, and ERRCODE is the last one's. -/
theorem emissionIsContinuousAcrossCommands : Obligations.EmissionIsContinuousAcrossCommands := by
  intro s ws hidle hbusy hready hws c
  obtain ⟨code, hcore⟩ := cmdSequence_core hws hidle hbusy hready
  have hc : c = { emit (ws.map wordsAskedFor).sum s.core with errcode := code } := hcore
  rw [hc]

end Sys2Proof.Machine
end

section
/-! PROOF. A turn of the host, one equation per kind of statement, and the settled statements about the register window (R35 to R42),
about what a turn leaves with the host (R10, R12, R87, R88) and about the reset input (R180). -/

namespace Sys2Proof.Machine

/-! ### The register window -/

/-- The register at a 4-byte-aligned offset of the window is the one the layout of R35 names. -/
theorem busReg_add (base : Nat) {off : Nat} (haligned : off % 4 = 0) (hle : off ≤ 0x7C) :
    busReg base (base + off) 4 = some (regAt off) := by
  simp [busReg, supported, haligned, hle]

/-- Offsets 0x30 to 0x3C are reserved (R41). -/
theorem regAt_reserved (i : Fin 4) : regAt (0x30 + 4 * i.val) = .reserved := by
  decide +revert

/-- While CORE is not busy KBUF reads as it stands, and the read consumes nothing (R40). -/
theorem readReg_kbuf_of_not_busy {s : State} (h : s.core.busy = false) (k : Fin 16) :
    readReg (.kbuf k) s = (s.core.kbuf[k], s) := by
  simp [readReg, readKbuf, h]

/-- STATUS reads as a STATUS word of the flags, with CTR in its field while CORE is not busy (R37, R184). -/
theorem readReg_status_value (s : State) :
    ∃ x, (readReg .status s).1 = statusWord s.core x ∧ (s.core.busy = false → x = s.core.ctr) := by
  cases hbusy : s.core.busy with
  | false => exact ⟨s.core.ctr, by rw [readReg_status_of_not_busy hbusy], fun _ => rfl⟩
  | true =>
    obtain ⟨x, hx⟩ := readStatus_value s
    exact ⟨x, hx, fun h => nomatch h⟩

/-! ### What the host keeps of its reads -/

/-- A recorded read changes what the host keeps and the number of draws (R10, R68). -/
theorem recordRead_readReg (name : Option String) (r : Reg) (s : State) :
    recordRead name (readReg r s).1 (readReg r s).2 = { s with
      readData := (readReg r s).1
      named := name.elim s.named fun n => (n, (readReg r s).1) :: s.named
      draws := (readReg r s).2.draws } := by
  obtain ⟨d, h⟩ := readReg_state r s
  rw [h]
  cases name <;> rfl

/-- A poll of WAIT is a read of STATUS, over when BUSY is 0 (R88). -/
theorem waitPoll_eq (rest : List Input) (s : State) :
    waitPoll rest s = { s with
      inputs := if s.core.busy then .wait :: rest else rest
      readData := (readReg .status s).1
      draws := (readReg .status s).2.draws } := by
  obtain ⟨d, h⟩ := readReg_state .status s
  rw [waitPoll, readStatus_busy, readStatus_eq, h]
  rfl

/-- A CHECK is a read of STATUS, an error when ERRCODE is not 0 (R88). -/
theorem checkStatus_eq (s : State) :
    checkStatus s = { s with
      programError := s.programError || s.core.errcode != 0
      readData := (readReg .status s).1
      draws := (readReg .status s).2.draws } := by
  obtain ⟨d, h⟩ := readReg_state .status s
  rw [checkStatus, readStatus_errcode, readStatus_eq, h]
  rfl

/-! ### A step that is the host's next statement -/

/-- The state a statement of the host finds in its turn: taken off the inputs, `rest` still to come, and a host turn used up
while a command runs. -/
def takeInput (rest : List Input) (s : State) : State := { s with inputs := rest, turns := turnsAfter 1 s }

@[simp] theorem takeInput_core (rest : List Input) (s : State) : (takeInput rest s).core = s.core := rfl
@[simp] theorem takeInput_base (rest : List Input) (s : State) : (takeInput rest s).base = s.base := rfl
@[simp] theorem takeInput_inputs (rest : List Input) (s : State) : (takeInput rest s).inputs = rest := rfl
@[simp] theorem takeInput_turns (rest : List Input) (s : State) : (takeInput rest s).turns = turnsAfter 1 s := rfl
@[simp] theorem takeInput_programError (rest : List Input) (s : State) : (takeInput rest s).programError = s.programError := rfl

section
variable {s : State} {rest : List Input}

/-- A step whose next statement reads a register records what that register reads. -/
theorem step_of_read (hturn : hostHasTurn s) {addr : Nat} {name : Option String}
    (hin : s.inputs = .memRead addr 4 name :: rest) {r : Reg} (hreg : busReg s.base addr 4 = some r) :
    step s = .next (recordRead name (readReg r (takeInput rest s)).1
      (readReg r (takeInput rest s)).2) := by
  rw [step_hostHasTurn hturn, hostTurn]
  simp only [hin]
  exact memRead_of_busReg (s := takeInput rest s) hreg name

/-- A step whose next statement writes a register is that register's write. -/
theorem step_of_write (hturn : hostHasTurn s) {addr : Nat} {v : Word}
    (hin : s.inputs = .memWrite addr 4 v :: rest) {r : Reg} (hreg : busReg s.base addr 4 = some r) :
    step s = writeReg r v (takeInput rest s) := by
  rw [step_hostHasTurn hturn, hostTurn]
  simp only [hin]
  exact memWrite_of_busReg (s := takeInput rest s) hreg v

/-- CMD stands at BASE (R35, R36). -/
theorem step_of_cmdWrite (hturn : hostHasTurn s) {w : Word} (hin : s.inputs = .memWrite s.base 4 w :: rest) :
    step s = cmdWrite w (takeInput rest s) :=
  step_of_write hturn hin (busReg_regOffset s.base .cmd)

theorem step_of_wait (hturn : hostHasTurn s) (hin : s.inputs = .wait :: rest) :
    step s = .next (waitPoll rest (takeInput rest s)) := by
  rw [step_hostHasTurn hturn, hostTurn]
  simp only [hin]
  rfl

theorem step_of_check (hturn : hostHasTurn s) (hin : s.inputs = .check :: rest) :
    step s = .next (checkStatus (takeInput rest s)) := by
  rw [step_hostHasTurn hturn, hostTurn]
  simp only [hin]
  rfl

theorem step_of_assertReset (hturn : hostHasTurn s) (hin : s.inputs = .assertReset :: rest) :
    step s = .next (applyReset (takeInput rest s)) := by
  rw [step_hostHasTurn hturn, hostTurn]
  simp only [hin]
  rfl

end

/-! ### Reset -/

/-- The reset values the spec gives, whatever the draws (R43, R180). -/
theorem afterReset_stated (d : Nat) :
    let c := CoreState.afterReset d
    c.ctr = 0#10 ∧ c.keyin = Vector.replicate 4 0#32 ∧ c.ivin = Vector.replicate 4 0#32 ∧ c.kbuf = Vector.replicate 16 0#32 ∧
    c.busy = false ∧ c.keyed = false ∧ c.ready = false ∧ c.errcode = 0#3 ∧ c.engine = .idle :=
  ⟨rfl, rfl, rfl, rfl, rfl, rfl, rfl, rfl, rfl⟩

/-! ### The statements -/

/-- Settles O36: each offset is aligned and inside the window, and the layout names its register. -/
theorem registerWindowLayout : Obligations.RegisterWindowLayout := by
  intro base
  refine ⟨busReg_regOffset base .cmd, busReg_regOffset base .status, busReg_regOffset base .reserved,
    busReg_add base (off := 0x0C) (by decide) (by decide), fun i => ⟨?keyin, ?ivin, ?reserved⟩, fun k => ?kbuf⟩ <;>
    rw [Nat.add_assoc]
  case keyin => exact busReg_regOffset base (.keyin i)
  case ivin => exact busReg_regOffset base (.ivin i)
  case reserved => rw [busReg_add base (by omega) (by omega), regAt_reserved]
  case kbuf => exact busReg_regOffset base (.kbuf k)

/-- Settles O39: no read changes CORE, and the two reads named are the register equations. -/
theorem readsHaveNoSideEffects : Obligations.ReadsHaveNoSideEffects := fun s =>
  ⟨fun r => readReg_core r s, readReg_reserved s, fun hbusy k => readReg_kbuf_of_not_busy hbusy k⟩

/-- Settles O44: the write reaches CMD, and its word is the command's. -/
theorem stepRunsTheDecodedCommand : Obligations.StepRunsTheDecodedCommand := by
  intro s w i rest hdec hin
  have hexec : hostHasTurn s → step s = exec i (takeInput rest s) := fun hturn => by
    rw [step_of_cmdWrite hturn hin, cmdWrite, hdec]
  refine ⟨fun hidle => ?_, fun hrun hturns => ?_⟩
  · rw [hexec (.inl hidle), takeInput, turnsAfter, if_pos hidle]
  · rw [hexec (.inr hturns), takeInput, turnsAfter, if_neg hrun]

/-- Settles O50: the input is applied to the state without it, and the components stated are those of every reset. -/
theorem resetInputResetsEveryComponent : Obligations.ResetInputResetsEveryComponent := by
  intro s rest hin hturn
  obtain ⟨hctr, hkeyin, hivin, hkbuf, hbusy, hkeyed, hready, herr, hidle⟩ := afterReset_stated s.draws
  exact ⟨_, step_of_assertReset hturn hin, hbusy, hkeyed, hready, herr, hctr, hkeyin, hivin, hkbuf, hidle,
    rfl, rfl, rfl, rfl, rfl⟩

/-- Settles O51: the reset state is CORE after a reset from draw 0 on. -/
theorem resetStateHasTheStatedValues : Obligations.ResetStateHasTheStatedValues := afterReset_stated 0

/-- Settles O56: the read is recorded, and its address says which register gave the value. -/
theorem hostReadsRecordTheRegisterValue : Obligations.HostReadsRecordTheRegisterValue := by
  intro s r addr name rest hturn hin hreg
  obtain ⟨hvalue, -⟩ := readReg_agree r (s := takeInput rest s) (t := s) rfl rfl
  refine ⟨_, step_of_read hturn hin hreg, ?_⟩
  rw [recordRead_readReg, hvalue]
  refine ⟨rfl, rfl, rfl, fun haddr => ?status, fun k haddr hbusy => ?kbuf⟩
  case status =>
    obtain rfl : r = .status := Option.some.inj (hreg.symm.trans (haddr ▸ busReg_regOffset s.base .status))
    exact readReg_status_value s
  case kbuf =>
    rw [Nat.add_assoc] at haddr
    obtain rfl : r = .kbuf k := Option.some.inj (hreg.symm.trans (haddr ▸ busReg_regOffset s.base (.kbuf k)))
    exact congrArg Prod.fst (readReg_kbuf_of_not_busy hbusy k)

/-- Settles O57: in a turn of the host the step is the write it makes. -/
theorem hostWritesReachTheRegister : Obligations.HostWritesReachTheRegister := fun _ _ _ _ _ hturn hin hreg =>
  step_of_write hturn hin hreg

/-- Settles O58: the CHECK is one recorded read of STATUS. -/
theorem checkFlagsANonzeroErrcode : Obligations.CheckFlagsANonzeroErrcode := by
  intro s rest hturn hin
  refine ⟨_, step_of_check hturn hin, ?_⟩
  rw [checkStatus_eq]
  refine ⟨?error, readReg_status_value _, rfl⟩
  simp

/-- Settles O59: the poll is one recorded read of STATUS, which decides by BUSY whether another is to come. -/
theorem waitPollsUntilNotBusy : Obligations.WaitPollsUntilNotBusy := by
  intro s rest hturn hin
  refine ⟨_, step_of_wait hturn hin, ?_⟩
  rw [waitPoll_eq]
  exact ⟨fun hbusy => if_pos hbusy, fun hbusy => if_neg (ne_true_of_eq_false hbusy), readReg_status_value _, rfl⟩

end Sys2Proof.Machine
end

section
/-! PROOF. What one step of the machine can do to CORE, said once, and the settled statements that follow from it: the legal states
(R28, R31, R160), ERRCODE (R166), CTR (R148) and the tables and operands the host cannot read (R29). -/

namespace Sys2Proof.Machine

/-! ### What a step can do to CORE -/

/-- What a CMD write of the word `w` can make of the CORE `c`: a code, whether a rejection's or that of a command that completes at
once, or the start of a command. -/
inductive CmdMove (w : Word) (c : CoreState) : CoreState → Prop
  | setErrcode (code : BitVec 3) (hcode : code.toNat ≤ 4) : CmdMove w c { c with errcode := code }
  | startInit (hdec : decode w = .ok .init) (hbusy : c.busy = false) : CmdMove w c (acceptInit c)
  | startResync (hdec : decode w = .ok .resync) (hbusy : c.busy = false) (hkeyed : c.keyed = true) :
      CmdMove w c (acceptResync c)
  | startGen (n : BitVec 5) (hbusy : c.busy = false) (hready : c.ready = true) (hpos : 1 ≤ n.toNat) (hle : n.toNat ≤ 16) :
      CmdMove w c (startEngine (.runGen n) c)

theorem cmdMove_of_cmdWrite {w : Word} {s t : State} (h : cmdWrite w s = .next t) : CmdMove w s.core t.core := by
  rcases cmdWrite_cases w s with ⟨e, -, hw⟩ | ⟨i, hdec, hw⟩
  case inl =>
    obtain rfl := Host.Outcome.next.inj (hw.symm.trans h)
    exact .setErrcode _ (by split <;> decide)
  rw [hw] at h
  rcases exec_cases i s with ⟨code, -, hcode, hx⟩ | ⟨-, -, hx⟩ | ⟨hbusy, rfl, hx⟩ | ⟨hbusy, hkeyed, rfl, hx⟩ |
    ⟨n, hbusy, hready, rfl, hpos, hle, hx⟩ <;>
  obtain rfl := Host.Outcome.next.inj (hx.symm.trans h)
  · exact .setErrcode code hcode
  · exact .setErrcode 0 (by decide)
  · exact .startInit hdec hbusy
  · exact .startResync hdec hbusy hkeyed
  · exact .startGen n hbusy hready hpos hle

/-- The CORE a step from `s` can leave: untouched, or changed by the engine's turn, by one CMD write, by one staging write or by a
reset. -/
inductive CoreMove (s : State) : CoreState → Prop
  | untouched : CoreMove s s.core
  | complete (hrun : s.core.engine ≠ .idle) (hturns : s.turns = 0) : CoreMove s (completeCommand s.core)
  | cmd {c : CoreState} (w : Word) (rest : List Input) (hin : s.inputs = .memWrite s.base 4 w :: rest)
      (hmove : CmdMove w s.core c) : CoreMove s c
  | stage (keyin ivin : Quad) : CoreMove s (withStaging keyin ivin s.core)
  | reset (rest : List Input) (hin : s.inputs = .assertReset :: rest) (d : Nat) : CoreMove s (CoreState.afterReset d)

theorem coreMove_of_hostTurn {s t : State} {n : Nat} (h : hostTurn { s with turns := n } = .next t) : CoreMove s t.core := by
  rcases hostTurn_cases { s with turns := n } with ⟨u, hu, hcore, -⟩ | ⟨w, rest, hin, hu⟩ | ⟨i, v, -, rest, -, hu⟩ |
    ⟨i, v, -, rest, -, hu⟩ | ⟨rest, hin, hu⟩ | ⟨hu, -⟩ <;> rw [hu] at h
  · obtain rfl := Host.Outcome.next.inj h
    rw [hcore]
    exact .untouched
  · have hmove := cmdMove_of_cmdWrite h
    exact .cmd w rest hin hmove
  · obtain rfl := Host.Outcome.next.inj h
    exact .stage (s.core.keyin.set i.val v i.isLt) s.core.ivin
  · obtain rfl := Host.Outcome.next.inj h
    exact .stage s.core.keyin (s.core.ivin.set i.val v i.isLt)
  · obtain rfl := Host.Outcome.next.inj h
    exact .reset (s := s) rest hin s.draws
  · cases h

/-- All a step can do to CORE (R3). -/
theorem coreMove_of_step {s t : State} (h : step s = .next t) : CoreMove s t.core := by
  rcases step_cases s with ⟨hrun, hturns, hs⟩ | ⟨-, hs⟩ | ⟨-, -, hs⟩
  · obtain rfl := Host.Outcome.next.inj (hs.symm.trans h)
    exact .complete hrun hturns
  · exact coreMove_of_hostTurn (n := s.turns) (hs.symm.trans h)
  · exact coreMove_of_hostTurn (hs.symm.trans h)

/-! ### The legal states -/

/-- The invariant's four parts as propositions. -/
theorem legal_iff (c : CoreState) :
    c.legal = true ↔ engineCoherent c = true ∧ c.errcode.toNat ≤ 4 ∧ (c.ready = true ∨ c.kbuf = clearedKbuf) ∧
      (c.keyed = true ∨ c.ctr = 0) := by
  simp [CoreState.legal, and_assoc]

theorem legal_set_errcode {c : CoreState} {code : BitVec 3} (h : c.legal = true) (hcode : code.toNat ≤ 4) :
    CoreState.legal { c with errcode := code } = true := by
  obtain ⟨hcoherent, -, hkbuf, hctr⟩ := (legal_iff c).mp h
  exact (legal_iff _).mpr ⟨hcoherent, hcode, hkbuf, hctr⟩

theorem legal_withStaging {c : CoreState} (keyin ivin : Quad) (h : c.legal = true) :
    (withStaging keyin ivin c).legal = true := h

theorem legal_afterReset (d : Nat) : (CoreState.afterReset d).legal = true := by
  rw [legal_iff]
  exact ⟨rfl, Nat.zero_le 4, .inr rfl, .inr rfl⟩

/-- An accepted INIT leaves a legal CORE whatever it found (R128). -/
theorem legal_acceptInit (c : CoreState) : (acceptInit c).legal = true := by
  rw [legal_iff]
  exact ⟨rfl, Nat.zero_le 4, .inr rfl, .inl rfl⟩

/-- An accepted RESYNC leaves a legal CORE whatever it found but for KEYED (R129). -/
theorem legal_acceptResync {c : CoreState} (hkeyed : c.keyed = true) : (acceptResync c).legal = true := by
  rw [legal_iff]
  exact ⟨by simp [engineCoherent, hkeyed], Nat.zero_le 4, .inr rfl, .inl hkeyed⟩

/-- A legal CORE that is not busy is idle, with KEYED and READY equal (R28, R31). -/
theorem idle_of_legal_of_not_busy {c : CoreState} (h : c.legal = true) (hbusy : c.busy = false) :
    c.engine = .idle ∧ c.keyed = c.ready := by
  obtain ⟨hcoherent, -⟩ := (legal_iff c).mp h
  cases hengine : c.engine <;> simp_all [engineCoherent]

theorem legal_startEngine_runGen {c : CoreState} {n : BitVec 5} (h : c.legal = true) (hbusy : c.busy = false)
    (hready : c.ready = true) (hpos : 1 ≤ n.toNat) (hle : n.toNat ≤ 16) : (startEngine (.runGen n) c).legal = true := by
  obtain ⟨-, hkeyed⟩ := idle_of_legal_of_not_busy h hbusy
  rw [hready] at hkeyed
  rw [legal_iff]
  exact ⟨by simp [engineCoherent, hkeyed, hready, hpos, hle], Nat.zero_le 4, .inl hready, .inl hkeyed⟩

/-- A running command of a legal CORE has a key, and if it is a GEN ready tables (R162, R163). -/
theorem flags_of_legal_of_running {c : CoreState} (h : c.legal = true) (hrun : c.engine ≠ .idle) :
    c.keyed = true ∧ ∀ n, c.engine = .runGen n → c.ready = true := by
  obtain ⟨hcoherent, -⟩ := (legal_iff c).mp h
  cases hengine : c.engine <;> simp_all [engineCoherent]

theorem legal_completeCommand {c : CoreState} (h : c.legal = true) (hrun : c.engine ≠ .idle) :
    (completeCommand c).legal = true := by
  obtain ⟨hkeyed, hready⟩ := flags_of_legal_of_running h hrun
  obtain ⟨-, herr, -⟩ := (legal_iff c).mp h
  have hready' : (completeCommand c).ready = true := by
    rcases completeCommand_cases c with ⟨hidle, -⟩ | ⟨-, heq⟩ | ⟨n, hgen, heq⟩
    · exact absurd hidle hrun
    · rw [heq]
    · rw [heq]; exact hready n hgen
  rw [legal_iff]
  refine ⟨?_, by rwa [completeCommand_errcode], .inl hready', .inl (by rwa [completeCommand_keyed])⟩
  simp [engineCoherent, completeCommand_busy hrun, hkeyed, hready']

/-- A CMD write of any word keeps CORE legal (R160 to R167). -/
theorem legal_of_cmdMove {w : Word} {c d : CoreState} (h : c.legal = true) (hmove : CmdMove w c d) : d.legal = true := by
  cases hmove with
  | setErrcode code hcode => exact legal_set_errcode h hcode
  | startInit => exact legal_acceptInit c
  | startResync _ _ hkeyed => exact legal_acceptResync hkeyed
  | startGen n hbusy hready hpos hle => exact legal_startEngine_runGen h hbusy hready hpos hle

/-! ### The statements -/

/-- Settles O52: the invariant holds of every CORE a step can leave. -/
theorem everyStepKeepsCoreLegal : Obligations.EveryStepKeepsCoreLegal := by
  intro s t hlegal hstep
  have hmove := coreMove_of_step hstep
  generalize t.core = c at hmove ⊢
  cases hmove with
  | untouched => exact hlegal
  | complete hrun => exact legal_completeCommand hlegal hrun
  | cmd w rest hin hmove => exact legal_of_cmdMove hlegal hmove
  | stage keyin ivin => exact legal_withStaging keyin ivin hlegal
  | reset rest hin d => exact legal_afterReset d

/-- Settles O53: the reset state is CORE after a reset from draw 0 on. -/
theorem resetStateIsLegal : Obligations.ResetStateIsLegal := legal_afterReset 0

/-- Settles O15: of what a step can do to CORE only a CMD write and a reset write ERRCODE. -/
theorem errcodeChangesOnlyAtCmdWriteOrReset : Obligations.ErrcodeChangesOnlyAtCmdWriteOrReset := by
  refine ⟨fun s t hstep hne => ?onlyThere, fun s w => ?bounded, completeCommand_errcode⟩
  case onlyThere =>
    have hmove := coreMove_of_step hstep
    generalize t.core = c at hmove hne
    cases hmove with
    | untouched | stage => exact absurd rfl hne
    | complete => exact absurd (completeCommand_errcode s.core) hne
    | cmd w rest hin => exact .inl ⟨w, rest, hin⟩
    | reset rest hin => exact .inr ⟨rest, hin⟩
  case bounded =>
    obtain ⟨t, h⟩ := cmdWrite_next w s
    have hmove := cmdMove_of_cmdWrite h
    refine ⟨t, h, ?_⟩
    generalize t.core = c at hmove ⊢
    cases hmove with
    | setErrcode code hcode => exact hcode
    | startInit | startResync | startGen => exact Nat.zero_le 4

/-- Settles O35: CTR is written by the completion of the running command and by a reset. -/
theorem counterMovesForwardOnly : Obligations.CounterMovesForwardOnly := by
  intro s t hstep
  have hmove := coreMove_of_step hstep
  generalize t.core = c at hmove ⊢
  cases hmove with
  | untouched | stage => exact .inl rfl
  | complete hrun hturns =>
    rcases completeCommand_cases s.core with ⟨hidle, -⟩ | ⟨hinit, heq⟩ | ⟨n, hgen, heq⟩
    · exact absurd hidle hrun
    · exact .inr (.inr (.inl ⟨hinit, hturns, by rw [heq]; rfl⟩))
    · exact .inr (.inl ⟨n, hgen, hturns, by rw [heq]⟩)
  | cmd w rest hin hmove => cases hmove <;> exact .inl rfl
  | reset rest hin d => exact .inr (.inr (.inr ⟨⟨rest, hin⟩, rfl⟩))

/-- Settles O48: P and Q are written by completion, KEY by an accepted INIT, IV by an accepted INIT or RESYNC, and all four by a
reset. -/
theorem secretsAreWrittenOnlyByCommandsAndReset : Obligations.SecretsAreWrittenOnlyByCommandsAndReset := by
  intro s t hstep hnoReset
  have hmove := coreMove_of_step hstep
  generalize t.core = c at hmove ⊢
  cases hmove with
  | untouched | stage => simp [withStaging]
  | complete hrun hturns => exact ⟨fun _ => ⟨hrun, hturns⟩, by simp, by simp⟩
  | reset rest hin => exact absurd hin (hnoReset rest)
  | cmd w rest hin hmove =>
    cases hmove with
    | setErrcode | startGen => simp
    | startInit hdec hbusy =>
      exact ⟨by simp, fun _ => ⟨rfl, hbusy, w, rest, hin, hdec⟩, fun _ => ⟨rfl, hbusy, w, rest, hin, .inl hdec⟩⟩
    | startResync hdec hbusy => exact ⟨by simp, by simp, fun _ => ⟨rfl, hbusy, w, rest, hin, .inr hdec⟩⟩

end Sys2Proof.Machine
end

section
/-! PROOF. Runs of several steps: the engine's turn, the staging writes of SETKEY and SETIV (R88), WAIT and the completion it ends with
(R183, R188), and the settled statements about them, up to the boot sequence (R182). -/

namespace Sys2Proof.Machine

/-! ### The engine's turn -/

/-- With its host turns used up, a running command completes (R69). -/
theorem step_of_engineTurn {s : State} (hrun : s.core.engine ≠ .idle) (hturns : s.turns = 0) :
    step s = .next (engineTurn s) := by
  rw [step, if_neg hrun, if_pos hturns]

/-- Completion carries a newly staged key along unread (R24, R185). -/
theorem completeCommand_set_keyin (keyin : Quad) (c : CoreState) :
    completeCommand { c with keyin := keyin } = { completeCommand c with keyin := keyin } :=
  calc completeCommand { c with keyin := keyin }
      = withStaging keyin c.ivin (completeCommand c) := completeCommand_withStaging keyin c.ivin c
    _ = { completeCommand c with keyin := keyin } := by rw [← completeCommand_ivin c]; rfl

/-- Completion carries a newly staged IV along unread (R25, R185). -/
theorem completeCommand_set_ivin (ivin : Quad) (c : CoreState) :
    completeCommand { c with ivin := ivin } = { completeCommand c with ivin := ivin } :=
  calc completeCommand { c with ivin := ivin }
      = withStaging c.keyin ivin (completeCommand c) := completeCommand_withStaging c.keyin ivin c
    _ = { completeCommand c with ivin := ivin } := by rw [← completeCommand_keyin c]; rfl

/-! ### Staging -/

/-- What a write to the register `r` makes of CORE, for the registers other than CMD (R37 to R42). -/
def stageReg (r : Reg) (v : Word) (c : CoreState) : CoreState :=
  match r with
  | .keyin i => { c with keyin := c.keyin.set i.val v i.isLt }
  | .ivin i => { c with ivin := c.ivin.set i.val v i.isLt }
  | .cmd | .status | .kbuf _ | .reserved => c

theorem writeReg_of_ne_cmd {r : Reg} (h : r ≠ .cmd) (v : Word) (s : State) :
    writeReg r v s = .next { s with core := stageReg r v s.core } := by
  cases r with
  | cmd => exact absurd rfl h
  | status | kbuf | reserved | keyin | ivin => rfl

@[simp] theorem stageReg_engine (r : Reg) (v : Word) (c : CoreState) : (stageReg r v c).engine = c.engine := by
  cases r <;> rfl

/-- CORE after writes to several registers, in their order. -/
def stageRegs (ws : List (Reg × Word)) (c : CoreState) : CoreState := ws.foldl (fun c rv => stageReg rv.1 rv.2 c) c

/-- The state a staging write of the host leaves, `rest` still to come. -/
def afterStaging (r : Reg) (v : Word) (rest : List Input) (s : State) : State :=
  { takeInput rest s with core := stageReg r v s.core }

theorem step_of_staging {r : Reg} (h : r ≠ .cmd) {v : Word} {s : State} {rest : List Input} (hturn : hostHasTurn s)
    (hin : s.inputs = asmWrite s.base r v :: rest) : step s = .next (afterStaging r v rest s) := by
  rw [step_of_write hturn hin (busReg_regOffset s.base r), writeReg_of_ne_cmd h]
  rfl

section
variable {n : Nat} {s t : State} (hengine : t.core.engine = s.core.engine) (hturns : t.turns = turnsAfter 1 s)
include hengine hturns

/-- Host turns are used up one at a time. -/
theorem turnsAfter_succ : turnsAfter n t = turnsAfter (n + 1) s := by
  by_cases hidle : s.core.engine = .idle
  · simp [turnsAfter, hengine, hturns, hidle]
  · simp [turnsAfter, hengine, hturns, hidle, Nat.sub_sub, Nat.add_comm]

/-- A host that has n + 1 turns has n after one of them. -/
theorem turns_suffice_succ (h : s.core.engine = .idle ∨ n + 1 ≤ s.turns) : t.core.engine = .idle ∨ n ≤ t.turns := by
  rw [hengine, hturns, turnsAfter]
  refine h.imp_right fun hle => ?_
  split <;> omega

end

/-- A run of staging writes that the host has the turns for takes a step a write and changes CORE as they say, the host turns, and
the inputs that are left. -/
theorem runSteps_stageRegs (ws : List (Reg × Word)) (hws : ∀ rv ∈ ws, rv.1 ≠ .cmd) {s : State} {rest : List Input}
    (hturn : s.core.engine = .idle ∨ ws.length ≤ s.turns)
    (hin : s.inputs = ws.map (fun rv => asmWrite s.base rv.1 rv.2) ++ rest) :
    runSteps ws.length s =
      .next { s with core := stageRegs ws s.core, inputs := rest, turns := turnsAfter ws.length s } := by
  induction ws generalizing s with
  | nil =>
    have hturns : turnsAfter 0 s = s.turns := by simp [turnsAfter]
    have hrest : s.inputs = rest := hin
    subst hrest
    simp [hturns, stageRegs]
  | cons rv ws ih =>
    obtain ⟨hrv, hrest⟩ := List.forall_mem_cons.mp hws
    rw [List.length_cons] at hturn ⊢
    have hhost : hostHasTurn s := hturn.imp_right (Nat.lt_of_lt_of_le (Nat.succ_pos _))
    have hstep := step_of_staging hrv hhost hin
    have hengine := stageReg_engine rv.1 rv.2 s.core
    rw [runSteps_succ _ hstep, ih hrest (turns_suffice_succ hengine rfl hturn) rfl, turnsAfter_succ hengine rfl]
    rfl

/-- Four words written to a quad one after the other are the quad. -/
theorem quad_set_all (q : Quad) (a b c d : Word) : (((q.set 0 a).set 1 b).set 2 c).set 3 d = #v[a, b, c, d] := by
  apply Vector.ext
  intro i hi
  have : i = 0 ∨ i = 1 ∨ i = 2 ∨ i = 3 := by omega
  rcases this with rfl | rfl | rfl | rfl <;> simp

/-- A SETKEY takes four steps and leaves its words in KEYIN (R88). -/
theorem runSteps_setKey (a b c d : Word) {s : State} {rest : List Input} (hturn : s.core.engine = .idle ∨ 4 ≤ s.turns)
    (hin : s.inputs = expandStmt s.base (.setKey a b c d) ++ rest) :
    runSteps 4 s = .next { s with
      core := { s.core with keyin := #v[a, b, c, d] }, inputs := rest, turns := turnsAfter 4 s } := by
  rw [← quad_set_all s.core.keyin a b c d]
  exact runSteps_stageRegs [(.keyin 0, a), (.keyin 1, b), (.keyin 2, c), (.keyin 3, d)] (by simp) hturn hin

/-- A SETIV takes four steps and leaves its words in IVIN (R88). -/
theorem runSteps_setIv (a b c d : Word) {s : State} {rest : List Input} (hturn : s.core.engine = .idle ∨ 4 ≤ s.turns)
    (hin : s.inputs = expandStmt s.base (.setIv a b c d) ++ rest) :
    runSteps 4 s = .next { s with
      core := { s.core with ivin := #v[a, b, c, d] }, inputs := rest, turns := turnsAfter 4 s } := by
  rw [← quad_set_all s.core.ivin a b c d]
  exact runSteps_stageRegs [(.ivin 0, a), (.ivin 1, b), (.ivin 2, c), (.ivin 3, d)] (by simp) hturn hin

/-- The word GEN n is written with is the encoder's (R84, R88). -/
theorem asmWord_gen (n : Fin 17) :
    0x00000003#32 + BitVec.ofNat 32 (16 * n.val) = encode (.gen (BitVec.ofNat 5 n.val)) := by
  decide +revert

/-! ### WAIT -/

/-- A WAIT polls away the host turns of the running command, sees it complete, and ends one poll later (R88, R188). -/
theorem runSteps_wait (n : Nat) {s : State} {rest : List Input} (hrun : s.core.engine ≠ .idle) (hbusy : s.core.busy = true)
    (hin : s.inputs = .wait :: rest) (hturns : s.turns = n) :
    ∃ t, runSteps (n + 2) s = .next t ∧ t.inputs = rest ∧ t.core = completeCommand s.core ∧
      t.programError = s.programError := by
  induction n generalizing s with
  | zero =>
    have hidle : (engineTurn s).core.engine = .idle := completeCommand_engine s.core
    have hfree : (completeCommand s.core).busy = false := completeCommand_busy hrun
    refine ⟨waitPoll rest (takeInput rest (engineTurn s)), ?_, by simp [hfree], by simp, by simp⟩
    rw [runSteps_succ _ (step_of_engineTurn hrun hturns), runSteps_succ _ (step_of_wait (.inl hidle) hin), runSteps_zero]
  | succ n ih =>
    have hpoll := step_of_wait (.inr (by omega)) hin
    obtain ⟨t, hsteps, hinputs, hcore, herror⟩ := ih (s := waitPoll rest (takeInput rest s)) (by simpa using hrun)
      (by simpa using hbusy) (by simp [hbusy]) (by simp [turnsAfter, hrun, hturns])
    refine ⟨t, by rw [runSteps_succ _ hpoll, hsteps], hinputs, ?_, ?_⟩
    · rw [hcore, waitPoll_core, takeInput_core]
    · rw [herror, waitPoll_programError, takeInput_programError]

/-! ### Runs put together -/

theorem runSteps_one {s t : State} (h : step s = .next t) : runSteps 1 s = .next t := by
  rw [runSteps_succ 0 h, runSteps_zero]

theorem runSteps_trans {a b : Nat} {s t u : State} (h : runSteps a s = .next t) (h' : runSteps b t = .next u) :
    runSteps (a + b) s = .next u :=
  (runSteps_add a b h).trans h'

/-- A SETKEY and a SETIV leave their words staged (R88). -/
theorem runSteps_setKeyIv {s : State} {rest : List Input} (hidle : s.core.engine = .idle)
    {k0 k1 k2 k3 v0 v1 v2 v3 : Word} (hin : s.inputs =
      expandStmt s.base (.setKey k0 k1 k2 k3) ++ (expandStmt s.base (.setIv v0 v1 v2 v3) ++ rest)) :
    runSteps 8 s = .next { s with
      core := withStaging #v[k0, k1, k2, k3] #v[v0, v1, v2, v3] s.core, inputs := rest } := by
  have hkey := runSteps_setKey k0 k1 k2 k3 (.inl hidle) hin
  refine (runSteps_trans hkey (runSteps_setIv v0 v1 v2 v3 (.inl hidle) rfl)).trans ?_
  simp [turnsAfter, hidle, withStaging]

/-! ### Commands written to an idle CORE -/

/-- The state an accepted INIT leaves, `rest` still to come. -/
def afterInit (rest : List Input) (s : State) : State :=
  setTurns (Config.latInit s.draws) { takeInput rest s with core := acceptInit s.core }

section
variable {s : State} {rest : List Input} (hidle : s.core.engine = .idle) (hbusy : s.core.busy = false)
include hidle hbusy

/-- An INIT is accepted (R128). -/
theorem step_of_initWrite (hin : s.inputs = .memWrite s.base 4 (encode .init) :: rest) :
    step s = .next (afterInit rest s) := by
  rw [step_of_cmdWrite (.inl hidle) hin, cmdWrite_encode rfl]
  exact exec_init_of_not_busy hbusy

/-- A GEN n with n above 0 is accepted once the tables are ready (R144). -/
theorem step_of_genWrite {n : BitVec 5} (hpos : 1 ≤ n.toNat) (hle : n.toNat ≤ 16) (hready : s.core.ready = true)
    (hin : s.inputs = .memWrite s.base 4 (encode (.gen n)) :: rest) :
    step s = .next (setTurns (Config.latGen (genCount n) s.draws)
      { takeInput rest s with core := startEngine (.runGen n) s.core }) := by
  have hcount : genCount n ≠ 0 := Nat.one_le_iff_ne_zero.mp hpos
  rw [step_of_cmdWrite (.inl hidle) hin, cmdWrite_encode (i := .gen n) (decide_eq_true hle)]
  exact (exec_gen_of_ready (s := takeInput rest s) hle hbusy hready).trans (if_neg hcount)

/-- An INIT that is waited for leaves CORE initialized with the staged operands (R128, R188). -/
theorem runSteps_initWait (hin : s.inputs = .memWrite s.base 4 (encode .init) :: .wait :: rest) :
    ∃ k t, runSteps k s = .next t ∧ t.inputs = rest ∧
      t.core = initializedCore s.core.keyin s.core.ivin s.core.keyin s.core.ivin ∧ t.programError = s.programError := by
  obtain ⟨t, hsteps, hinputs, hcore, herror⟩ := runSteps_wait (Config.latInit s.draws) (rest := rest)
    (s := afterInit (.wait :: rest) s) (fun h => nomatch h) rfl rfl rfl
  exact ⟨_, t, runSteps_trans (runSteps_one (step_of_initWrite hidle hbusy hin)) hsteps, hinputs,
    hcore.trans (completeCommand_acceptInit s.core), herror⟩

end

/-- The STATUS word of a CORE just initialized: KEYED and READY alone (R37, R182). -/
theorem statusWord_initializedCore (key iv keyin ivin : Quad) :
    statusWord (initializedCore key iv keyin ivin) 0 = 0x00000006#32 := by
  simp [statusWord, errFlag, initializedCore, errOk]

/-- A CHECK of a CORE just initialized finds no error (R182). -/
theorem step_of_check_initialized {s : State} {rest : List Input} {key iv keyin ivin : Quad}
    (hcore : s.core = initializedCore key iv keyin ivin) (hin : s.inputs = .check :: rest) :
    ∃ t, step s = .next t ∧ t.inputs = rest ∧ t.core = s.core ∧ t.programError = s.programError ∧
      t.readData = 0x00000006#32 := by
  have hidle : s.core.engine = .idle := by rw [hcore]; rfl
  have hbusy : s.core.busy = false := by rw [hcore]; rfl
  refine ⟨_, step_of_check (.inl hidle) hin, ?_⟩
  rw [checkStatus_eq, readReg_status_of_not_busy (s := takeInput rest s) hbusy]
  refine ⟨rfl, rfl, ?_, ?_⟩
  · simp [hcore, initializedCore, errOk]
  · simp only [takeInput_core, hcore]
    exact statusWord_initializedCore key iv keyin ivin

/-! ### The statements -/

/-- Settles O42: the running command has latched its operands, so it completes alike whatever is staged. -/
theorem stagingWritesDoNotAffectTheRunningCommand : Obligations.StagingWritesDoNotAffectTheRunningCommand := by
  intro s v i
  constructor
  · rw [engineTurn, writeKeyin_core, completeCommand_set_keyin, ← completeCommand_keyin s.core]
    rfl
  · rw [engineTurn, writeIvin_core, completeCommand_set_ivin, ← completeCommand_ivin s.core]
    rfl

/-- Settles O43: the expansions as listed; the writes of SETKEY and SETIV are a run of staging writes. -/
theorem pseudoStatementsExpand : Obligations.PseudoStatementsExpand := by
  refine ⟨fun base => ⟨rfl, rfl, rfl, fun n => ?gen, fun _ _ _ _ => rfl, fun _ _ _ _ => rfl, rfl, rfl⟩,
    fun s a b c d hturn => ⟨?setKey, ?setIv⟩⟩
  case gen => rw [expandStmt, asmWord_gen]; rfl
  case setKey =>
    exact runSteps_setKey a b c d (s := { s with inputs := expandStmt s.base (.setKey a b c d) ++ s.inputs }) hturn rfl
  case setIv =>
    exact runSteps_setIv a b c d (s := { s with inputs := expandStmt s.base (.setIv a b c d) ++ s.inputs }) hturn rfl

/-- Settles O45: completion releases CORE and idles the engine. -/
theorem engineTurnCompletesTheCommand : Obligations.EngineTurnCompletesTheCommand := fun s hrun hturns =>
  ⟨step_of_engineTurn hrun hturns, completeCommand_busy hrun, completeCommand_engine s.core⟩

/-- Settles O46: the WAIT's run, which takes exactly two steps more than the host turns left. -/
theorem waitEndsWithTheCommandCompleted : Obligations.WaitEndsWithTheCommandCompleted := by
  intro s rest hrun hbusy hin
  obtain ⟨t, hsteps, hinputs, hcore, -⟩ := runSteps_wait s.turns hrun hbusy hin rfl
  exact ⟨_, t, le_rfl, hsteps, hinputs, hcore, by rw [hcore]; exact completeCommand_busy hrun⟩

/-- Settles O47: the latency decides whether the GEN finds CORE released and ready or still running the INIT. -/
theorem unwaitedGenHasTwoOutcomes : Obligations.UnwaitedGenHasTwoOutcomes := by
  intro s rest hidle hbusy hin
  have hrun : (acceptInit s.core).engine ≠ .idle := fun h => nomatch h
  have hready : (completeCommand (acceptInit s.core)).ready = true := by rw [completeCommand_acceptInit]; rfl
  refine ⟨_, step_of_initWrite hidle hbusy hin, rfl, fun hturns => ?accepted, fun hturns => ?rejected⟩
  case accepted =>
    have hgen := step_of_genWrite (s := engineTurn (afterInit (.memWrite s.base 4 0x00000013#32 :: rest) s))
      (completeCommand_engine _) (completeCommand_busy hrun) (n := 1) (by decide) (by decide) hready rfl
    exact ⟨_, runSteps_trans (runSteps_one (step_of_engineTurn hrun hturns)) (runSteps_one hgen), rfl, rfl⟩
  case rejected => exact ⟨_, (step_of_cmdWrite (.inr hturns) rfl).trans (cmdWrite_of_busy _ rfl), rfl, rfl⟩

/-- Settles O55: the operands staged, the INIT waited for and the CHECK, one run after the other. -/
theorem bootSequenceMakesCoreReady : Obligations.BootSequenceMakesCoreReady := by
  intro s k0 k1 k2 k3 v0 v1 v2 v3 hidle hbusy hnoError hin
  have hstage := runSteps_setKeyIv hidle hin
  obtain ⟨k, t, hinit, hinputs, hcore, herror⟩ := runSteps_initWait (rest := [.check]) (s := { s with
    core := withStaging #v[k0, k1, k2, k3] #v[v0, v1, v2, v3] s.core
    inputs := expandProgram s.base [.init, .wait, .check] }) hidle hbusy rfl
  obtain ⟨u, hcheck, hend, hcore', herror', hread⟩ := step_of_check_initialized hcore hinputs
  obtain ⟨hP, hQ⟩ := initializeTables_tables_congr #v[k0, k1, k2, k3] #v[v0, v1, v2, v3] (CoreState.afterReset 0) s.core
  have hu : u.core = initializedCore #v[k0, k1, k2, k3] #v[v0, v1, v2, v3] #v[k0, k1, k2, k3] #v[v0, v1, v2, v3] :=
    hcore'.trans hcore
  refine ⟨_, u, runSteps_trans hstage (runSteps_trans hinit (runSteps_one hcheck)), hend,
    herror'.trans (herror.trans hnoError), hread, ?_⟩
  rw [hu]
  exact ⟨rfl, rfl, rfl, rfl, rfl, rfl, rfl, rfl, hP, hQ⟩

end Sys2Proof.Machine
end

section
/-! PROOF. Runs of supported host programs never fault (R67, R169): each turn goes on with statements it already had. -/

namespace Sys2Proof.Machine

/-! ### What an operation leaves to the host -/

/-- A command's meaning changes neither the host's inputs nor BASE. -/
theorem exec_inputs_base {i : Instr} {s t : State} (h : exec i s = .next t) : t.inputs = s.inputs ∧ t.base = s.base := by
  rcases exec_cases i s with ⟨_, -, -, hx⟩ | ⟨-, -, hx⟩ | ⟨-, -, hx⟩ | ⟨-, -, -, hx⟩ | ⟨_, -, -, -, -, -, hx⟩ <;>
  obtain rfl := Host.Outcome.next.inj (hx.symm.trans h) <;>
  exact ⟨rfl, rfl⟩

theorem cmdWrite_inputs_base {w : Word} {s t : State} (h : cmdWrite w s = .next t) :
    t.inputs = s.inputs ∧ t.base = s.base := by
  rcases cmdWrite_cases w s with ⟨e, -, hw⟩ | ⟨i, -, hw⟩
  · obtain rfl := Host.Outcome.next.inj (hw.symm.trans h)
    exact ⟨rfl, rfl⟩
  · exact exec_inputs_base (hw.symm.trans h)

/-- A write that reaches a register goes on, and changes neither the host's inputs nor BASE. -/
theorem writeReg_goes_on (r : Reg) (v : Word) (s : State) :
    ∃ t, writeReg r v s = .next t ∧ t.inputs = s.inputs ∧ t.base = s.base := by
  by_cases hr : r = .cmd
  · subst hr
    obtain ⟨t, h⟩ := cmdWrite_next v s
    exact ⟨t, h, cmdWrite_inputs_base h⟩
  · exact ⟨_, writeReg_of_ne_cmd hr v s, rfl, rfl⟩

/-! ### Supported programs -/

/-- A supported access reaches a register (R67). -/
theorem busReg_of_supported {base addr width : Nat} (h : supported base addr width = true) :
    busReg base addr width = some (regAt (addr - base)) := by
  rw [busReg, if_pos h]

theorem programSupported_cons {s : State} {i : Input} {rest : List Input} (hin : s.inputs = i :: rest) :
    programSupported s = true ↔ inputSupported s.base i = true ∧ rest.all (inputSupported s.base) = true := by
  rw [programSupported, hin, List.all_cons, Bool.and_eq_true]

/-- A state whose inputs are supported ones is a state with a supported program. -/
theorem programSupported_of_inputs {s t : State} {rest : List Input} (hrest : rest.all (inputSupported s.base) = true)
    (hin : t.inputs = rest) (hbase : t.base = s.base) : programSupported t = true := by
  rw [programSupported, hin, hbase, hrest]

/-- The host's turn of a supported program goes on, and what is left of the program is supported. -/
theorem hostTurn_of_programSupported {s : State} (h : programSupported s = true) :
    ∃ t, hostTurn s = .next t ∧ programSupported t = true ∧ t.base = s.base := by
  unfold hostTurn
  split <;> rename_i hin
  case h_1 => exact ⟨s, rfl, h, rfl⟩
  all_goals obtain ⟨hfirst, hrest⟩ := (programSupported_cons hin).mp h
  case h_2 addr width name rest =>
    refine ⟨_, memRead_of_busReg (s := { s with inputs := rest }) (busReg_of_supported hfirst) name, ?_, ?_⟩
    · exact programSupported_of_inputs hrest (by simp) (by simp)
    · simp
  case h_3 addr width v rest =>
    obtain ⟨t, hwrite, hinputs, hbase⟩ := writeReg_goes_on (regAt (addr - s.base)) v { s with inputs := rest }
    refine ⟨t, ?_, programSupported_of_inputs hrest hinputs hbase, hbase⟩
    rw [memWrite_of_busReg (s := { s with inputs := rest }) (busReg_of_supported hfirst), hwrite]
  case h_4 rest =>
    refine ⟨_, rfl, ?_, by simp⟩
    cases hbusy : s.core.busy with
    | false => exact programSupported_of_inputs hrest (by simp [hbusy]) (by simp)
    | true => exact programSupported_of_inputs (rest := .wait :: rest) hrest (by simp [hbusy]) (by simp)
  case h_5 rest => exact ⟨_, rfl, programSupported_of_inputs hrest (by simp) (by simp), by simp⟩
  case h_6 rest => exact ⟨_, rfl, programSupported_of_inputs hrest rfl rfl, rfl⟩

/-- A step of a supported program goes on, and what is left of the program is supported. -/
theorem step_of_programSupported {s : State} (h : programSupported s = true) :
    ∃ t, step s = .next t ∧ programSupported t = true ∧ t.base = s.base := by
  rcases step_cases s with ⟨-, -, hs⟩ | ⟨-, hs⟩ | ⟨-, -, hs⟩ <;> rw [hs]
  · exact ⟨_, rfl, h, rfl⟩
  · exact hostTurn_of_programSupported h
  · exact hostTurn_of_programSupported (s := { s with turns := s.turns - 1 }) h

/-! ### The statement -/

/-- Settles O54: induction on the number of steps. -/
theorem supportedProgramsNeverFault : Obligations.SupportedProgramsNeverFault := by
  intro k
  induction k with
  | zero => exact fun s h => ⟨s, rfl, h, rfl⟩
  | succ k ih =>
    intro s h
    obtain ⟨t, hstep, ht, hbase⟩ := step_of_programSupported h
    obtain ⟨u, hrun, hu, hbase'⟩ := ih t ht
    exact ⟨u, (runSteps_succ k hstep).trans hrun, hu, hbase'.trans hbase⟩

end Sys2Proof.Machine
end

section
/-! PROOF. What the host cannot read (R29, R38, R39) does not bear on its turn: two machines that differ in P, Q, KEY, IV, KEYIN and
IVIN alone take it alike. -/

namespace Sys2Proof.Machine

/-! ### CORE with other secrets -/

/-- The CORE `c` with the components the host cannot read taken from `d`. -/
def withSecretsOf (d c : CoreState) : CoreState :=
  { c with P := d.P, Q := d.Q, key := d.key, iv := d.iv, keyin := d.keyin, ivin := d.ivin }

/-- A machine with the secrets of `d` in its CORE. -/
def State.withSecretsOf (d : CoreState) (s : State) : State := { s with core := Machine.withSecretsOf d s.core }

/-- The host cannot tell two states apart exactly when one is the other with other secrets. -/
theorem hostEquiv_iff (s t : State) : hostEquiv s t ↔ ∃ d, t = s.withSecretsOf d := by
  constructor
  · exact fun h => ⟨t.core, h⟩
  · rintro ⟨d, rfl⟩
    rfl

theorem hostEquiv_withSecretsOf (d : CoreState) (s : State) : hostEquiv s (s.withSecretsOf d) :=
  (hostEquiv_iff s _).mpr ⟨d, rfl⟩

/-! ### Outcomes the host cannot tell apart -/

/-- Two outcomes the host cannot tell apart: the same fault, or next states that differ in the secrets alone. -/
def outcomesAlike (o p : Host.Outcome State Fault Refusal) : Prop :=
  (∀ f, o = .fault f → p = .fault f) ∧ ∀ u, o = .next u → ∃ v, p = .next v ∧ hostEquiv u v

theorem outcomesAlike_fault (f : Fault) : outcomesAlike (.fault f) (.fault f) :=
  ⟨fun _ h => h, fun _ h => (nomatch h)⟩

theorem outcomesAlike_next {u v : State} (h : hostEquiv u v) : outcomesAlike (.next u) (.next v) :=
  ⟨fun _ h => (nomatch h), fun _ hu => ⟨v, rfl, Host.Outcome.next.inj hu ▸ h⟩⟩

/-! ### The operations of a host's turn -/

/-- While CORE is busy STATUS reads with a draw in CTR's field (R184). -/
theorem readReg_status_of_busy {s : State} (h : s.core.busy = true) :
    readReg .status s = (statusWord s.core ((drawnWord s).setWidth 10), afterDraw s) := by
  simp [readReg, readStatus, h]

/-- While CORE is busy KBUF reads as a draw (R184). -/
theorem readReg_kbuf_of_busy {s : State} (h : s.core.busy = true) (k : Fin 16) :
    readReg (.kbuf k) s = (drawnWord s, afterDraw s) := by
  simp [readReg, readKbuf, h]

/-- What a register reads as is no secret (R38, R39), and the read leaves the secrets as they are (R68). -/
theorem readReg_withSecretsOf (d : CoreState) (r : Reg) (s : State) :
    readReg r (s.withSecretsOf d) = ((readReg r s).1, (readReg r s).2.withSecretsOf d) := by
  cases r with
  | cmd | keyin | ivin | reserved => rfl
  | status =>
    cases hbusy : s.core.busy with
    | true => rw [readReg_status_of_busy hbusy, readReg_status_of_busy (s := s.withSecretsOf d) hbusy]; rfl
    | false => rw [readReg_status_of_not_busy hbusy, readReg_status_of_not_busy (s := s.withSecretsOf d) hbusy]; rfl
  | kbuf k =>
    cases hbusy : s.core.busy with
    | true => rw [readReg_kbuf_of_busy hbusy, readReg_kbuf_of_busy (s := s.withSecretsOf d) hbusy]; rfl
    | false => rw [readReg_kbuf_of_not_busy hbusy, readReg_kbuf_of_not_busy (s := s.withSecretsOf d) hbusy]; rfl

section
variable (d : CoreState) (s : State)

theorem raiseCmdError_withSecretsOf (code : BitVec 3) :
    outcomesAlike (.next (raiseCmdError code s)) (.next (raiseCmdError code (s.withSecretsOf d))) :=
  outcomesAlike_next (hostEquiv_withSecretsOf d (raiseCmdError code s))

/-- A NOP or a GEN touches no secret before its run (R144, R145). -/
theorem exec_uninitializing_withSecretsOf {i : Instr} (hinit : i ≠ .init) (hresync : i ≠ .resync) :
    outcomesAlike (exec i s) (exec i (s.withSecretsOf d)) := by
  rcases exec_determined_by_flags hinit hresync s.core.busy s.core.ready with ⟨code, h⟩ | ⟨n, h⟩ <;>
    rw [h s rfl rfl, h (s.withSecretsOf d) rfl rfl]
  · exact raiseCmdError_withSecretsOf d s code
  · exact outcomesAlike_next (hostEquiv_withSecretsOf d
      (setTurns (Config.latGen (genCount n) s.draws) { s with core := startEngine (.runGen n) s.core }))

/-- INIT and RESYNC latch secrets into secrets; the flags alone say what the host sees of a command (R128, R129). -/
theorem exec_withSecretsOf (i : Instr) : outcomesAlike (exec i s) (exec i (s.withSecretsOf d)) := by
  cases hbusy : s.core.busy with
  | true =>
    rw [exec_busy i hbusy, exec_busy i (s := s.withSecretsOf d) hbusy]
    exact raiseCmdError_withSecretsOf d s errBusy
  | false =>
    cases i with
    | nop => exact exec_uninitializing_withSecretsOf d s (by decide) (by decide)
    | gen n => exact exec_uninitializing_withSecretsOf d s (by simp) (by simp)
    | init =>
      rw [exec_init_of_not_busy hbusy, exec_init_of_not_busy (s := s.withSecretsOf d) hbusy]
      exact outcomesAlike_next (hostEquiv_withSecretsOf (acceptInit d) (setTurns _ { s with core := acceptInit s.core }))
    | resync =>
      cases hkeyed : s.core.keyed with
      | false =>
        rw [exec_resync_of_not_keyed hbusy hkeyed, exec_resync_of_not_keyed (s := s.withSecretsOf d) hbusy hkeyed]
        exact raiseCmdError_withSecretsOf d s errNoKey
      | true =>
        rw [exec_resync_of_keyed hbusy hkeyed, exec_resync_of_keyed (s := s.withSecretsOf d) hbusy hkeyed]
        exact outcomesAlike_next
          (hostEquiv_withSecretsOf (acceptResync d) (setTurns _ { s with core := acceptResync s.core }))

theorem cmdWrite_withSecretsOf (w : Word) : outcomesAlike (cmdWrite w s) (cmdWrite w (s.withSecretsOf d)) := by
  cases hdec : decode w with
  | ok i =>
    simp only [cmdWrite, hdec]
    exact exec_withSecretsOf d s i
  | error e =>
    simp only [cmdWrite, hdec]
    exact raiseCmdError_withSecretsOf d s _

/-- A staging write stores a secret (R38, R39); the other writes store none. -/
theorem writeReg_withSecretsOf (r : Reg) (v : Word) :
    outcomesAlike (writeReg r v s) (writeReg r v (s.withSecretsOf d)) := by
  by_cases hr : r = .cmd
  · subst hr
    exact cmdWrite_withSecretsOf d s v
  · rw [writeReg_of_ne_cmd hr, writeReg_of_ne_cmd hr]
    refine outcomesAlike_next ((hostEquiv_iff _ _).mpr ⟨stageReg r v d, ?_⟩)
    cases r <;> rfl

theorem memRead_withSecretsOf (addr width : Nat) (name : Option String) :
    outcomesAlike (memRead addr width name s) (memRead addr width name (s.withSecretsOf d)) := by
  cases hreg : busReg s.base addr width with
  | none =>
    rw [(memRead_fault_iff addr width name s).mpr hreg, (memRead_fault_iff addr width name (s.withSecretsOf d)).mpr hreg]
    exact outcomesAlike_fault .busError
  | some r =>
    rw [memRead_of_busReg hreg, memRead_of_busReg (s := s.withSecretsOf d) hreg, readReg_withSecretsOf]
    exact outcomesAlike_next (hostEquiv_withSecretsOf d (recordRead name (readReg r s).1 (readReg r s).2))

theorem memWrite_withSecretsOf (addr width : Nat) (v : Word) :
    outcomesAlike (memWrite addr width v s) (memWrite addr width v (s.withSecretsOf d)) := by
  cases hreg : busReg s.base addr width with
  | none =>
    rw [(memWrite_fault_iff addr width v s).mpr hreg, (memWrite_fault_iff addr width v (s.withSecretsOf d)).mpr hreg]
    exact outcomesAlike_fault .busError
  | some r =>
    rw [memWrite_of_busReg hreg, memWrite_of_busReg (s := s.withSecretsOf d) hreg]
    exact writeReg_withSecretsOf d s r v

theorem waitPoll_withSecretsOf (rest : List Input) :
    waitPoll rest (s.withSecretsOf d) = (waitPoll rest s).withSecretsOf d := by
  rw [waitPoll_eq, waitPoll_eq, readReg_withSecretsOf]
  rfl

theorem checkStatus_withSecretsOf : checkStatus (s.withSecretsOf d) = (checkStatus s).withSecretsOf d := by
  rw [checkStatus_eq, checkStatus_eq, readReg_withSecretsOf]
  rfl

/-- A host's turn, statement by statement. -/
theorem hostTurn_withSecretsOf : outcomesAlike (hostTurn s) (hostTurn (s.withSecretsOf d)) := by
  have hin : (s.withSecretsOf d).inputs = s.inputs := rfl
  cases h : s.inputs with
  | nil =>
    simp only [hostTurn, hin, h]
    exact outcomesAlike_next (hostEquiv_withSecretsOf d s)
  | cons i rest =>
    cases i <;> simp only [hostTurn, hin, h]
    case memRead addr width name => exact memRead_withSecretsOf d { s with inputs := rest } addr width name
    case memWrite addr width v => exact memWrite_withSecretsOf d { s with inputs := rest } addr width v
    case wait =>
      exact outcomesAlike_next ((hostEquiv_iff _ _).mpr ⟨d, waitPoll_withSecretsOf d { s with inputs := rest } rest⟩)
    case check =>
      exact outcomesAlike_next ((hostEquiv_iff _ _).mpr ⟨d, checkStatus_withSecretsOf d { s with inputs := rest }⟩)
    case assertReset =>
      exact outcomesAlike_next (hostEquiv_withSecretsOf (CoreState.afterReset s.draws) (applyReset { s with inputs := rest }))

end

/-! ### The statement -/

/-- Settles O49: the second state is the first with other secrets. -/
theorem hostTurnRevealsNoSecret : Obligations.HostTurnRevealsNoSecret := by
  intro s t h
  obtain ⟨d, rfl⟩ := (hostEquiv_iff s t).mp h
  exact hostTurn_withSecretsOf d s

end Sys2Proof.Machine
end
